-- ==== Sys2Proof/Word.lean ====
section
/-! DEFINITION. The machine's two widths (spec/00_scope.md R5): bytes and 16-bit addresses. -/

namespace Sys2Proof

/-- An 8-bit value: A, X, Y, P, SP, a memory byte, an opcode byte (R5, R10). -/
abbrev Byte := BitVec 8

/-- A 16-bit value: PC and every address (R5, R12, R40). -/
abbrev Addr := BitVec 16

end Sys2Proof
end

