-- ==== Sys2Proof/Syntax.lean ====
section
/-! DEFINITION. The instruction set as syntax: the 56 mnemonics, the twelve addressing modes with their operands, the
descriptor of the Operation Table, and `Instr`, one constructor per mnemonic. A row of spec/opcode_table.json is a
constructor at the operand of that row's mode (R83: dispatch is on the mnemonic alone, the mode is a parameter of
the handler); WellFormed.lean says which pairs are rows. -/

namespace Sys2Proof

/-- The twelve addressing modes (spec/00_scope.md R9, spec/40_step_and_addressing.md R86 to R97). -/
inductive Mode where
  | immediate | relative | zeroPage | zeroPageX | zeroPageY | absolute | absoluteX | absoluteY
  | indirect | indirectX | indirectY | implied
  deriving DecidableEq, Repr

/-- Instruction length in bytes, fixed by the mode (spec/30_encoding.md R61). -/
def Mode.length : Mode → Nat
  | .implied => 1
  | .immediate | .relative | .zeroPage | .zeroPageX | .zeroPageY | .indirectX | .indirectY => 2
  | .absolute | .absoluteX | .absoluteY | .indirect => 3

/-- The 56 mnemonics (spec/30_encoding.md R64), in that rule's order. -/
inductive Mnemonic where
  | adc | and | ora | eor | asl | lsr | rol | ror
  | bcc | bcs | beq | bmi | bne | bpl | bvc | bvs
  | bit | cmp | cpx | cpy | dec | inc | dex | dey | inx | iny
  | lda | ldx | ldy | tax | tay | jmp | jsr
  | pha | php | pla | plp | rti | clc | cld | cli | clv | nop | brk
  | sbc | sta | stx | sty | sec | sed | sei | tsx | txa | txs | tya | rts
  deriving DecidableEq, Repr

/-- What the Operation Table holds for an opcode byte: "(mnemonic, addressing mode, byte length)" (R9, R63). -/
structure Descriptor where
  mnemonic : Mnemonic
  mode : Mode
  length : Nat
  deriving DecidableEq, Repr

/-- An operand: the addressing mode with its operand bytes assembled (spec/30_encoding.md R62). A two-byte operand is
the 16-bit word `{hi, lo}`. -/
inductive Operand where
  | immediate (b : Byte)
  | relative (b : Byte)
  | zeroPage (b : Byte)
  | zeroPageX (b : Byte)
  | zeroPageY (b : Byte)
  | absolute (w : Addr)
  | absoluteX (w : Addr)
  | absoluteY (w : Addr)
  | indirect (w : Addr)
  | indirectX (b : Byte)
  | indirectY (b : Byte)
  | implied
  deriving DecidableEq, Repr

/-- The addressing mode of an operand. -/
def Operand.mode : Operand → Mode
  | .immediate _ => .immediate
  | .relative _ => .relative
  | .zeroPage _ => .zeroPage
  | .zeroPageX _ => .zeroPageX
  | .zeroPageY _ => .zeroPageY
  | .absolute _ => .absolute
  | .absoluteX _ => .absoluteX
  | .absoluteY _ => .absoluteY
  | .indirect _ => .indirect
  | .indirectX _ => .indirectX
  | .indirectY _ => .indirectY
  | .implied => .implied

/-- Length in bytes of an instruction with this operand (R61). -/
def Operand.length (o : Operand) : Nat := o.mode.length

/-- The instructions, one constructor per mnemonic of the opcode table. Mnemonics whose handler takes the addressing
mode as a parameter carry an operand; a branch carries its displacement byte, JSR its target, and the Implied-only
mnemonics carry nothing. -/
inductive Instr where
  | adc (o : Operand)
  | and (o : Operand)
  | ora (o : Operand)
  | eor (o : Operand)
  | asl (o : Operand)
  | lsr (o : Operand)
  | rol (o : Operand)
  | ror (o : Operand)
  | bcc (d : Byte)
  | bcs (d : Byte)
  | beq (d : Byte)
  | bmi (d : Byte)
  | bne (d : Byte)
  | bpl (d : Byte)
  | bvc (d : Byte)
  | bvs (d : Byte)
  | bit (o : Operand)
  | cmp (o : Operand)
  | cpx (o : Operand)
  | cpy (o : Operand)
  | dec (o : Operand)
  | inc (o : Operand)
  | dex
  | dey
  | inx
  | iny
  | lda (o : Operand)
  | ldx (o : Operand)
  | ldy (o : Operand)
  | tax
  | tay
  | jmp (o : Operand)
  | jsr (target : Addr)
  | pha
  | php
  | pla
  | plp
  | rti
  | clc
  | cld
  | cli
  | clv
  | nop
  | brk
  | sbc (o : Operand)
  | sta (o : Operand)
  | stx (o : Operand)
  | sty (o : Operand)
  | sec
  | sed
  | sei
  | tsx
  | txa
  | txs
  | tya
  | rts
  deriving DecidableEq, Repr

/-- The mnemonic an instruction is an occurrence of. -/
def Instr.mnemonic : Instr → Mnemonic
  | .adc _ => .adc
  | .and _ => .and
  | .ora _ => .ora
  | .eor _ => .eor
  | .asl _ => .asl
  | .lsr _ => .lsr
  | .rol _ => .rol
  | .ror _ => .ror
  | .bcc _ => .bcc
  | .bcs _ => .bcs
  | .beq _ => .beq
  | .bmi _ => .bmi
  | .bne _ => .bne
  | .bpl _ => .bpl
  | .bvc _ => .bvc
  | .bvs _ => .bvs
  | .bit _ => .bit
  | .cmp _ => .cmp
  | .cpx _ => .cpx
  | .cpy _ => .cpy
  | .dec _ => .dec
  | .inc _ => .inc
  | .dex => .dex
  | .dey => .dey
  | .inx => .inx
  | .iny => .iny
  | .lda _ => .lda
  | .ldx _ => .ldx
  | .ldy _ => .ldy
  | .tax => .tax
  | .tay => .tay
  | .jmp _ => .jmp
  | .jsr _ => .jsr
  | .pha => .pha
  | .php => .php
  | .pla => .pla
  | .plp => .plp
  | .rti => .rti
  | .clc => .clc
  | .cld => .cld
  | .cli => .cli
  | .clv => .clv
  | .nop => .nop
  | .brk => .brk
  | .sbc _ => .sbc
  | .sta _ => .sta
  | .stx _ => .stx
  | .sty _ => .sty
  | .sec => .sec
  | .sed => .sed
  | .sei => .sei
  | .tsx => .tsx
  | .txa => .txa
  | .txs => .txs
  | .tya => .tya
  | .rts => .rts

/-- The operand of an instruction: the one it carries, the Relative displacement of a branch, the Absolute target of
JSR, and none (Implied) otherwise. -/
def Instr.operand : Instr → Operand
  | .adc o | .and o | .ora o | .eor o | .asl o | .lsr o | .rol o | .ror o
  | .bit o | .cmp o | .cpx o | .cpy o | .dec o | .inc o | .lda o | .ldx o | .ldy o | .jmp o
  | .sbc o | .sta o | .stx o | .sty o => o
  | .bcc d | .bcs d | .beq d | .bmi d | .bne d | .bpl d | .bvc d | .bvs d => .relative d
  | .jsr w => .absolute w
  | .dex | .dey | .inx | .iny | .tax | .tay | .pha | .php | .pla | .plp | .rti
  | .clc | .cld | .cli | .clv | .nop | .brk
  | .sec | .sed | .sei | .tsx | .txa | .txs | .tya | .rts => .implied

/-- Length in bytes of an instruction (R61). -/
def Instr.length (i : Instr) : Nat := i.operand.length

end Sys2Proof
end

