-- ==== Sys2Proof/WellFormed.lean ====
section
/-! DEFINITION. Which pairs of a mnemonic and an addressing mode are rows of the opcode table (spec/30_encoding.md
R64, 151 pairs). Operand bytes are unconstrained (R68), so this one check is all there is. -/

namespace Sys2Proof

/-- The addressing modes of a mnemonic (R64). -/
def Mnemonic.modes : Mnemonic → List Mode
  | .adc | .and | .ora | .eor | .cmp | .lda | .sbc =>
      [.immediate, .zeroPage, .zeroPageX, .absolute, .absoluteX, .absoluteY, .indirectX, .indirectY]
  | .sta => [.zeroPage, .zeroPageX, .absolute, .absoluteX, .absoluteY, .indirectX, .indirectY]
  | .asl | .lsr | .rol | .ror => [.implied, .zeroPage, .zeroPageX, .absolute, .absoluteX]
  | .bcc | .bcs | .beq | .bmi | .bne | .bpl | .bvc | .bvs => [.relative]
  | .bit => [.zeroPage, .absolute]
  | .cpx | .cpy => [.immediate, .zeroPage, .absolute]
  | .dec | .inc => [.zeroPage, .zeroPageX, .absolute, .absoluteX]
  | .ldx => [.immediate, .zeroPage, .zeroPageY, .absolute, .absoluteY]
  | .ldy => [.immediate, .zeroPage, .zeroPageX, .absolute, .absoluteX]
  | .stx => [.zeroPage, .zeroPageY, .absolute]
  | .sty => [.zeroPage, .zeroPageX, .absolute]
  | .jmp => [.absolute, .indirect]
  | .jsr => [.absolute]
  | .dex | .dey | .inx | .iny | .tax | .tay | .pha | .php | .pla | .plp | .rti
  | .clc | .cld | .cli | .clv | .nop | .brk
  | .sec | .sed | .sei | .tsx | .txa | .txs | .tya | .rts => [.implied]

/-- An instruction is well formed when its mnemonic has its operand's mode, that is, when it stands for a row of the
opcode table. -/
def Instr.wellFormed (i : Instr) : Bool := i.mnemonic.modes.contains i.operand.mode

end Sys2Proof
end

