-- ==== Sys2Proof/Decode.lean ====
section
/-! DEFINITION. Decoding and encoding (spec/30_encoding.md). The decoder reads the 16 by 16 opcode matrix of R64; the
encoder, after it, reads the by-mnemonic table of the same rule, transcribed on its own, so that their agreement
checks both. The Operation Table is an argument of `decodeWith`, as the spec's parameter `OPTABLE` (R5); `optable` is
the spec's value of it. -/

namespace Sys2Proof

/-- One row (high nibble) of the opcode matrix of R64: sixteen cells by low nibble, `none` for the bytes of R66. The
pairing of bytes with mnemonics and modes is what spec/92_eei_decisions.md D1 decides (log 7). -/
def opcodeRow : Nat → List (Option (Mnemonic × Mode))
  | 0x0 => [some (.brk, .implied), some (.ora, .indirectX), none, none,
      none, some (.ora, .zeroPage), some (.asl, .zeroPage), none,
      some (.php, .implied), some (.ora, .immediate), some (.asl, .implied), none,
      none, some (.ora, .absolute), some (.asl, .absolute), none]
  | 0x1 => [some (.bpl, .relative), some (.ora, .indirectY), none, none,
      none, some (.ora, .zeroPageX), some (.asl, .zeroPageX), none,
      some (.clc, .implied), some (.ora, .absoluteY), none, none,
      none, some (.ora, .absoluteX), some (.asl, .absoluteX), none]
  | 0x2 => [some (.jsr, .absolute), some (.and, .indirectX), none, none,
      some (.bit, .zeroPage), some (.and, .zeroPage), some (.rol, .zeroPage), none,
      some (.plp, .implied), some (.and, .immediate), some (.rol, .implied), none,
      some (.bit, .absolute), some (.and, .absolute), some (.rol, .absolute), none]
  | 0x3 => [some (.bmi, .relative), some (.and, .indirectY), none, none,
      none, some (.and, .zeroPageX), some (.rol, .zeroPageX), none,
      some (.sec, .implied), some (.and, .absoluteY), none, none,
      none, some (.and, .absoluteX), some (.rol, .absoluteX), none]
  | 0x4 => [some (.rti, .implied), some (.eor, .indirectX), none, none,
      none, some (.eor, .zeroPage), some (.lsr, .zeroPage), none,
      some (.pha, .implied), some (.eor, .immediate), some (.lsr, .implied), none,
      some (.jmp, .absolute), some (.eor, .absolute), some (.lsr, .absolute), none]
  | 0x5 => [some (.bvc, .relative), some (.eor, .indirectY), none, none,
      none, some (.eor, .zeroPageX), some (.lsr, .zeroPageX), none,
      some (.cli, .implied), some (.eor, .absoluteY), none, none,
      none, some (.eor, .absoluteX), some (.lsr, .absoluteX), none]
  | 0x6 => [some (.rts, .implied), some (.adc, .indirectX), none, none,
      none, some (.adc, .zeroPage), some (.ror, .zeroPage), none,
      some (.pla, .implied), some (.adc, .immediate), some (.ror, .implied), none,
      some (.jmp, .indirect), some (.adc, .absolute), some (.ror, .absolute), none]
  | 0x7 => [some (.bvs, .relative), some (.adc, .indirectY), none, none,
      none, some (.adc, .zeroPageX), some (.ror, .zeroPageX), none,
      some (.sei, .implied), some (.adc, .absoluteY), none, none,
      none, some (.adc, .absoluteX), some (.ror, .absoluteX), none]
  | 0x8 => [none, some (.sta, .indirectX), none, none,
      some (.sty, .zeroPage), some (.sta, .zeroPage), some (.stx, .zeroPage), none,
      some (.dey, .implied), none, some (.txa, .implied), none,
      some (.sty, .absolute), some (.sta, .absolute), some (.stx, .absolute), none]
  | 0x9 => [some (.bcc, .relative), some (.sta, .indirectY), none, none,
      some (.sty, .zeroPageX), some (.sta, .zeroPageX), some (.stx, .zeroPageY), none,
      some (.tya, .implied), some (.sta, .absoluteY), some (.txs, .implied), none,
      none, some (.sta, .absoluteX), none, none]
  | 0xA => [some (.ldy, .immediate), some (.lda, .indirectX), some (.ldx, .immediate), none,
      some (.ldy, .zeroPage), some (.lda, .zeroPage), some (.ldx, .zeroPage), none,
      some (.tay, .implied), some (.lda, .immediate), some (.tax, .implied), none,
      some (.ldy, .absolute), some (.lda, .absolute), some (.ldx, .absolute), none]
  | 0xB => [some (.bcs, .relative), some (.lda, .indirectY), none, none,
      some (.ldy, .zeroPageX), some (.lda, .zeroPageX), some (.ldx, .zeroPageY), none,
      some (.clv, .implied), some (.lda, .absoluteY), some (.tsx, .implied), none,
      some (.ldy, .absoluteX), some (.lda, .absoluteX), some (.ldx, .absoluteY), none]
  | 0xC => [some (.cpy, .immediate), some (.cmp, .indirectX), none, none,
      some (.cpy, .zeroPage), some (.cmp, .zeroPage), some (.dec, .zeroPage), none,
      some (.iny, .implied), some (.cmp, .immediate), some (.dex, .implied), none,
      some (.cpy, .absolute), some (.cmp, .absolute), some (.dec, .absolute), none]
  | 0xD => [some (.bne, .relative), some (.cmp, .indirectY), none, none,
      none, some (.cmp, .zeroPageX), some (.dec, .zeroPageX), none,
      some (.cld, .implied), some (.cmp, .absoluteY), none, none,
      none, some (.cmp, .absoluteX), some (.dec, .absoluteX), none]
  | 0xE => [some (.cpx, .immediate), some (.sbc, .indirectX), none, none,
      some (.cpx, .zeroPage), some (.sbc, .zeroPage), some (.inc, .zeroPage), none,
      some (.inx, .implied), some (.sbc, .immediate), some (.nop, .implied), none,
      some (.cpx, .absolute), some (.sbc, .absolute), some (.inc, .absolute), none]
  | 0xF => [some (.beq, .relative), some (.sbc, .indirectY), none, none,
      none, some (.sbc, .zeroPageX), some (.inc, .zeroPageX), none,
      some (.sed, .implied), some (.sbc, .absoluteY), none, none,
      none, some (.sbc, .absoluteX), some (.inc, .absoluteX), none]
  | _ => []

/-- The Operation Table: a total function from the opcode byte to a descriptor or `none` (R63), with the length the
mode fixes (R61). -/
def optable (opc : Byte) : Option Descriptor :=
  match (opcodeRow (opc.toNat / 16)).getD (opc.toNat % 16) none with
  | some (mn, mode) => some ⟨mn, mode, mode.length⟩
  | none => none

/-- The 16-bit value `{hi, lo}` of two bytes (R7, R46). -/
def concat (hi lo : Byte) : Addr := hi ++ lo

/-- The low byte `w[7:0]` of a 16-bit value. -/
def lowByte (w : Addr) : Byte := w.setWidth 8

/-- The high byte `w[15:8]` of a 16-bit value. -/
def highByte (w : Addr) : Byte := (w >>> 8).setWidth 8

/-- The operand a mode assembles from the byte after the opcode and the byte after that (R62). A mode takes only the
bytes its format has (R61). -/
def Mode.assemble (m : Mode) (b1 b2 : Byte) : Operand :=
  match m with
  | .immediate => .immediate b1
  | .relative => .relative b1
  | .zeroPage => .zeroPage b1
  | .zeroPageX => .zeroPageX b1
  | .zeroPageY => .zeroPageY b1
  | .absolute => .absolute (concat b2 b1)
  | .absoluteX => .absoluteX (concat b2 b1)
  | .absoluteY => .absoluteY (concat b2 b1)
  | .indirect => .indirect (concat b2 b1)
  | .indirectX => .indirectX b1
  | .indirectY => .indirectY b1
  | .implied => .implied

/-- The instruction of a mnemonic at an operand, with the byte after the opcode and the byte after that. The mode only
says where the operand of a memory-operand handler is (R83); a branch takes its displacement from the byte after the
opcode (`EA(Relative)`, R130) and JSR its target from the two bytes there (`EA(Absolute)`, R172) in whatever mode a
table gives them, and the other mnemonics have no operand to look for. With the spec's table these bytes are those of the
operand (`Mnemonic.instr_operand`). What a pair that is no row of R64 does is read from those rules (DEDUCED, log 17). -/
def Mnemonic.instr (mn : Mnemonic) (o : Operand) (b1 b2 : Byte) : Instr :=
  match mn with
  | .adc => .adc o
  | .and => .and o
  | .ora => .ora o
  | .eor => .eor o
  | .asl => .asl o
  | .lsr => .lsr o
  | .rol => .rol o
  | .ror => .ror o
  | .bcc => .bcc b1
  | .bcs => .bcs b1
  | .beq => .beq b1
  | .bmi => .bmi b1
  | .bne => .bne b1
  | .bpl => .bpl b1
  | .bvc => .bvc b1
  | .bvs => .bvs b1
  | .bit => .bit o
  | .cmp => .cmp o
  | .cpx => .cpx o
  | .cpy => .cpy o
  | .dec => .dec o
  | .inc => .inc o
  | .dex => .dex
  | .dey => .dey
  | .inx => .inx
  | .iny => .iny
  | .lda => .lda o
  | .ldx => .ldx o
  | .ldy => .ldy o
  | .tax => .tax
  | .tay => .tay
  | .jmp => .jmp o
  | .jsr => .jsr (concat b2 b1)
  | .pha => .pha
  | .php => .php
  | .pla => .pla
  | .plp => .plp
  | .rti => .rti
  | .clc => .clc
  | .cld => .cld
  | .cli => .cli
  | .clv => .clv
  | .nop => .nop
  | .brk => .brk
  | .sbc => .sbc o
  | .sta => .sta o
  | .stx => .stx o
  | .sty => .sty o
  | .sec => .sec
  | .sed => .sed
  | .sei => .sei
  | .tsx => .tsx
  | .txa => .txa
  | .txs => .txs
  | .tya => .tya
  | .rts => .rts

/-- The instruction a descriptor makes of the byte after the opcode and the byte after that (R62). -/
def Descriptor.instr (d : Descriptor) (b1 b2 : Byte) : Instr := d.mnemonic.instr (d.mode.assemble b1 b2) b1 b2

/-- Why an opcode byte selects no instruction. -/
inductive DecodeError where
  /-- The opcode byte has no entry in the Operation Table (R63, R66): the core raises UnknownOpcode. -/
  | unknownOpcode (opc : Byte)
  deriving DecidableEq, Repr

/-- Why a byte string does not begin with an instruction. -/
inductive ByteStringError where
  /-- Its first byte selects none. -/
  | rejected (e : DecodeError)
  /-- It has fewer bytes than the instruction. Memory has a byte at every address, so a fetch never meets this. -/
  | truncated
  deriving DecidableEq, Repr

/-- Decode an opcode byte and the two bytes after it through a given Operation Table (R60 to R63): no byte with an entry
fails, whatever mode the table gives its mnemonic (R99). -/
def decodeWith (table : Byte → Option Descriptor) (opc b1 b2 : Byte) : Except DecodeError Instr :=
  match table opc with
  | none => .error (.unknownOpcode opc)
  | some d => .ok (d.instr b1 b2)

/-- Decode an opcode byte and the two bytes after it through the spec's table. -/
def decodeBytes (opc b1 b2 : Byte) : Except DecodeError Instr := decodeWith optable opc b1 b2

/-- Decode the instruction at the head of a byte string, with the bytes that follow it. Total on any bytes; the
descriptor alone gives the length (R63). -/
def decode : List Byte → Except ByteStringError (Instr × List Byte)
  | [] => .error .truncated
  | opc :: rest =>
    match decodeBytes opc (rest.getD 0 0) (rest.getD 1 0) with
    | .error e => .error (.rejected e)
    | .ok i =>
      if rest.length + 1 < i.length then .error .truncated
      else .ok (i, rest.drop (i.length - 1))

/-! ### The encoder -/

/-- The opcode bytes of a mnemonic by mode: the by-mnemonic table of R64. -/
def Mnemonic.opcodes : Mnemonic → List (Mode × Byte)
  | .adc => [(.immediate, 0x69), (.zeroPage, 0x65), (.zeroPageX, 0x75),
      (.absolute, 0x6D), (.absoluteX, 0x7D), (.absoluteY, 0x79), (.indirectX, 0x61), (.indirectY, 0x71)]
  | .and => [(.immediate, 0x29), (.zeroPage, 0x25), (.zeroPageX, 0x35),
      (.absolute, 0x2D), (.absoluteX, 0x3D), (.absoluteY, 0x39), (.indirectX, 0x21), (.indirectY, 0x31)]
  | .ora => [(.immediate, 0x09), (.zeroPage, 0x05), (.zeroPageX, 0x15),
      (.absolute, 0x0D), (.absoluteX, 0x1D), (.absoluteY, 0x19), (.indirectX, 0x01), (.indirectY, 0x11)]
  | .eor => [(.immediate, 0x49), (.zeroPage, 0x45), (.zeroPageX, 0x55),
      (.absolute, 0x4D), (.absoluteX, 0x5D), (.absoluteY, 0x59), (.indirectX, 0x41), (.indirectY, 0x51)]
  | .asl => [(.implied, 0x0A), (.zeroPage, 0x06), (.zeroPageX, 0x16), (.absolute, 0x0E), (.absoluteX, 0x1E)]
  | .lsr => [(.implied, 0x4A), (.zeroPage, 0x46), (.zeroPageX, 0x56), (.absolute, 0x4E), (.absoluteX, 0x5E)]
  | .rol => [(.implied, 0x2A), (.zeroPage, 0x26), (.zeroPageX, 0x36), (.absolute, 0x2E), (.absoluteX, 0x3E)]
  | .ror => [(.implied, 0x6A), (.zeroPage, 0x66), (.zeroPageX, 0x76), (.absolute, 0x6E), (.absoluteX, 0x7E)]
  | .bcc => [(.relative, 0x90)]
  | .bcs => [(.relative, 0xB0)]
  | .beq => [(.relative, 0xF0)]
  | .bmi => [(.relative, 0x30)]
  | .bne => [(.relative, 0xD0)]
  | .bpl => [(.relative, 0x10)]
  | .bvc => [(.relative, 0x50)]
  | .bvs => [(.relative, 0x70)]
  | .bit => [(.zeroPage, 0x24), (.absolute, 0x2C)]
  | .cmp => [(.immediate, 0xC9), (.zeroPage, 0xC5), (.zeroPageX, 0xD5),
      (.absolute, 0xCD), (.absoluteX, 0xDD), (.absoluteY, 0xD9), (.indirectX, 0xC1), (.indirectY, 0xD1)]
  | .cpx => [(.immediate, 0xE0), (.zeroPage, 0xE4), (.absolute, 0xEC)]
  | .cpy => [(.immediate, 0xC0), (.zeroPage, 0xC4), (.absolute, 0xCC)]
  | .dec => [(.zeroPage, 0xC6), (.zeroPageX, 0xD6), (.absolute, 0xCE), (.absoluteX, 0xDE)]
  | .inc => [(.zeroPage, 0xE6), (.zeroPageX, 0xF6), (.absolute, 0xEE), (.absoluteX, 0xFE)]
  | .dex => [(.implied, 0xCA)]
  | .dey => [(.implied, 0x88)]
  | .inx => [(.implied, 0xE8)]
  | .iny => [(.implied, 0xC8)]
  | .lda => [(.immediate, 0xA9), (.zeroPage, 0xA5), (.zeroPageX, 0xB5),
      (.absolute, 0xAD), (.absoluteX, 0xBD), (.absoluteY, 0xB9), (.indirectX, 0xA1), (.indirectY, 0xB1)]
  | .ldx => [(.immediate, 0xA2), (.zeroPage, 0xA6), (.zeroPageY, 0xB6), (.absolute, 0xAE), (.absoluteY, 0xBE)]
  | .ldy => [(.immediate, 0xA0), (.zeroPage, 0xA4), (.zeroPageX, 0xB4), (.absolute, 0xAC), (.absoluteX, 0xBC)]
  | .tax => [(.implied, 0xAA)]
  | .tay => [(.implied, 0xA8)]
  | .jmp => [(.absolute, 0x4C), (.indirect, 0x6C)]
  | .jsr => [(.absolute, 0x20)]
  | .pha => [(.implied, 0x48)]
  | .php => [(.implied, 0x08)]
  | .pla => [(.implied, 0x68)]
  | .plp => [(.implied, 0x28)]
  | .rti => [(.implied, 0x40)]
  | .clc => [(.implied, 0x18)]
  | .cld => [(.implied, 0xD8)]
  | .cli => [(.implied, 0x58)]
  | .clv => [(.implied, 0xB8)]
  | .nop => [(.implied, 0xEA)]
  | .brk => [(.implied, 0x00)]
  | .sbc => [(.immediate, 0xE9), (.zeroPage, 0xE5), (.zeroPageX, 0xF5),
      (.absolute, 0xED), (.absoluteX, 0xFD), (.absoluteY, 0xF9), (.indirectX, 0xE1), (.indirectY, 0xF1)]
  | .sta => [(.zeroPage, 0x85), (.zeroPageX, 0x95),
      (.absolute, 0x8D), (.absoluteX, 0x9D), (.absoluteY, 0x99), (.indirectX, 0x81), (.indirectY, 0x91)]
  | .stx => [(.zeroPage, 0x86), (.zeroPageY, 0x96), (.absolute, 0x8E)]
  | .sty => [(.zeroPage, 0x84), (.zeroPageX, 0x94), (.absolute, 0x8C)]
  | .sec => [(.implied, 0x38)]
  | .sed => [(.implied, 0xF8)]
  | .sei => [(.implied, 0x78)]
  | .tsx => [(.implied, 0xBA)]
  | .txa => [(.implied, 0x8A)]
  | .txs => [(.implied, 0x9A)]
  | .tya => [(.implied, 0x98)]
  | .rts => [(.implied, 0x60)]

/-- The opcode byte of a mnemonic at a mode, if the table pairs them. -/
def Mnemonic.opcodeAt (mn : Mnemonic) (mode : Mode) : Option Byte :=
  (mn.opcodes.find? (fun r => decide (r.1 = mode))).map Prod.snd

/-- The operand bytes in memory order, low byte first (R46, R61). -/
def Operand.bytes : Operand → List Byte
  | .immediate b | .relative b | .zeroPage b | .zeroPageX b | .zeroPageY b | .indirectX b | .indirectY b => [b]
  | .absolute w | .absoluteX w | .absoluteY w | .indirect w => [lowByte w, highByte w]
  | .implied => []

/-- The bytes of an instruction, opcode first (R60, R61); `none` for a pair that is no row of the table. -/
def encode (i : Instr) : Option (List Byte) :=
  (i.mnemonic.opcodeAt i.operand.mode).map (· :: i.operand.bytes)

/-! ### Words as the opcode table numbers their bits -/

/-- Byte `k` of an instruction word whose bit 0 is the least significant bit of the first byte, with every bit from
`nbits` up taken as 0. -/
def tableByte (nbits w k : Nat) : Byte := BitVec.ofNat 8 (w % 2 ^ nbits / 2 ^ (8 * k))

/-- The instruction the decoder reads from a word of the opcode table, later bytes zero. -/
def decodeTableWord (nbits w : Nat) : Option Instr :=
  match decodeBytes (tableByte nbits w 0) (tableByte nbits w 1) (tableByte nbits w 2) with
  | .ok i => some i
  | .error _ => none

end Sys2Proof
end

