-- ==== Sys2Proof/Machine/Flags.lean ====
section
/-! DEFINITION. The status byte P and every result and flag computation of the 8-bit ALU (spec/10_state.md R14 to R17,
spec/40_step_and_addressing.md R100 and R103). Functions of bytes only; no state. -/

namespace Sys2Proof.Machine

/-- The flags of P (R14). -/
inductive Flag where
  | c | z | i | d | b | u | v | n
  deriving DecidableEq, Repr

/-- Bit position of a flag in P (R14). -/
def Flag.index : Flag → Nat
  | .c => 0 | .z => 1 | .i => 2 | .d => 3 | .b => 4 | .u => 5 | .v => 6 | .n => 7

/-- The byte with only this flag's bit set. -/
def Flag.mask (f : Flag) : Byte := 1#8 <<< f.index

/-- Read one flag of a P value (R7). -/
def getFlag (f : Flag) (p : Byte) : Bool := p.getLsbD f.index

/-- A P value with one flag written and the other seven bits kept. Bits 4 and 5 are plain storage like the rest (R16). -/
def putFlag (f : Flag) (v : Bool) (p : Byte) : Byte := if v then p ||| f.mask else p &&& ~~~f.mask

/-- `SetZN(v)` (R100): Zero from the value, Negative from its bit 7, no other flag. -/
def setZN (v p : Byte) : Byte := putFlag .n v.msb (putFlag .z (decide (v = 0)) p)

/-! ### ADC (R110) -/

/-- `A + m + P.C` as an unbounded integer, 0 to 511. -/
def adcSum (a m : Byte) (c : Bool) : Nat := a.toNat + m.toNat + c.toNat

/-- The 8-bit sum. -/
def adcResult (a m : Byte) (c : Bool) : Byte := BitVec.ofNat 8 (adcSum a m c)

/-- Carry out: the unbounded sum exceeds 255 (the law of C1, not a comparison with A). -/
def adcCarry (a m : Byte) (c : Bool) : Bool := decide (adcSum a m c > 255)

/-- Overflow: `((A ^ r) & (m ^ r) & 0x80) != 0`. -/
def adcOverflow (a m : Byte) (c : Bool) : Bool :=
  let r := adcResult a m c
  decide ((a ^^^ r) &&& (m ^^^ r) &&& 0x80 ≠ 0)

/-- P after ADC: C, V, Z and N written. `P.D` is not read (R17, D13). -/
def adcFlags (a m p : Byte) : Byte :=
  let c := getFlag .c p
  setZN (adcResult a m c) (putFlag .v (adcOverflow a m c) (putFlag .c (adcCarry a m c) p))

/-! ### Shifts and rotates (R120 to R123): the incoming Carry and the operand give the result and the bit shifted out -/

/-- ASL: the vacated bit 0 is 0. -/
def aslOp (_c : Bool) (v : Byte) : Byte × Bool := (v <<< 1, v.getLsbD 7)

/-- LSR: the vacated bit 7 is 0. -/
def lsrOp (_c : Bool) (v : Byte) : Byte × Bool := (v >>> 1, v.getLsbD 0)

/-- ROL: the incoming Carry fills bit 0. -/
def rolOp (c : Bool) (v : Byte) : Byte × Bool := (v <<< 1 ||| (if c then 0x01 else 0x00), v.getLsbD 7)

/-- ROR: the incoming Carry fills bit 7. -/
def rorOp (c : Bool) (v : Byte) : Byte × Bool := (v >>> 1 ||| (if c then 0x80 else 0x00), v.getLsbD 0)

/-- P after a shift or rotate with this result and shifted-out bit: C, Z and N written. -/
def shiftFlags (r : Byte × Bool) (p : Byte) : Byte := setZN r.1 (putFlag .c r.2 p)

/-! ### Compares and BIT (R140 to R143) -/

/-- P after comparing register value `r` with `m`: C is `r >= m` unsigned, Z and N are from `r - m`. -/
def compareFlags (r m p : Byte) : Byte := setZN (r - m) (putFlag .c (decide (m.toNat ≤ r.toNat)) p)

/-- P after BIT: Z from `A & m`, N and V copied from bits 7 and 6 of `m`. -/
def bitFlags (a m p : Byte) : Byte :=
  putFlag .v (m.getLsbD 6) (putFlag .n (m.getLsbD 7) (putFlag .z (decide (a &&& m = 0)) p))

end Sys2Proof.Machine
end

