-- ==== Sys2Proof/Config.lean ====
section
/-! DEFINITION. The fixed parameters of the hardware (spec/00_scope.md R5). The two parameters that R5 names beside
them stand elsewhere: the Operation Table `OPTABLE` is `Sys2Proof.optable` in Decode.lean (the decoder takes any table
as an argument), and the initial memory `MEM_INIT` is the argument of `Machine.State.powerOn`. -/

namespace Sys2Proof.Config

/-- Address of the reset vector's low byte; the high byte follows at 0xFFFD (R5, R50). -/
def resetVector : Addr := 0xFFFC

/-- Where the loader copies the program image, and what it writes into the reset vector (R5, R258). -/
def programOrigin : Addr := 0x8000

/-- Base of the fixed stack page 0x0100 to 0x01FF (R5, R18). -/
def stackPage : Addr := 0x0100

/-- P at power-on: Break and the unused bit set, all other flags clear (R5, R28). -/
def powerOnP : Byte := 0x30

/-- SP at power-on (R5, R28). -/
def powerOnSP : Byte := 0xFF

/-- DESIGN CHOICE (log 1), unsafe: what a memory cell that the state's memory list does not name reads as. The spec
leaves `MEM_INIT` open (D19); any initial memory is given by listing its nonzero bytes. -/
def unlistedByte : Byte := 0x00

end Sys2Proof.Config
end

