-- ==== Sys2Proof/Machine/State.lean ====
section
/-! DEFINITION. Everything the core holds (spec/10_state.md) with the memory behind its port (spec/20_memory.md), the
reasons a step of the model can stop, and the state after reset. Plain data throughout. -/

namespace Sys2Proof.Machine

/-- The run state `run` (R20): whether the core steps at all. -/
inductive RunState where
  | running | halted | faulted
  deriving DecidableEq, Repr

/-- The three fatal conditions (R220), which have no numeric code (D24). -/
inductive FatalKind where
  /-- The byte fetched as an opcode has no Operation Table entry (R221). -/
  | unknownOpcode
  /-- The mnemonic decoded has no handler (R222). -/
  | notImplemented
  /-- A handler asked for the effective address of a mode that has none (R223). -/
  | addressingModeMisuse
  deriving DecidableEq, Repr

/-- The fault record (R21): the kind, the opcode byte fetched and its address `pc0`. -/
structure FaultRecord where
  kind : FatalKind
  opcode : Byte
  address : Addr
  deriving DecidableEq, Repr

/-- The memory: address and byte pairs, an unlisted address reading `Config.unlistedByte` (log 1). -/
abbrev Memory := List Host.Cell

/-- The state of the machine. R22: "There is no other hidden state." -/
structure State where
  /-- A, the accumulator (R10, R11). -/
  a : Byte
  /-- X, an index register (R10, R11). -/
  x : Byte
  /-- Y, an index register (R10, R11). -/
  y : Byte
  /-- P, the status register, bits C Z I D B U V N from bit 0 up (R14). -/
  p : Byte
  /-- PC, the program counter (R12). -/
  pc : Addr
  /-- SP, an offset into the stack page (R18). -/
  sp : Byte
  /-- The run state (R20). -/
  run : RunState
  /-- The fault record, or none (R21). -/
  fault : Option FaultRecord
  /-- The memory behind the core's port (R23, R24, R40). -/
  mem : Memory
  deriving DecidableEq, Repr

/-- Reasons for which a step of the model stops with a fault: none. Every address exists and no access can fail (R40,
R43), and the spec's own fatal conditions are entered as next states with `run` FAULTED (R224; log 4). Nobody raises a
value of this type, which is safe: it has no value. -/
inductive Fault where
  deriving DecidableEq, Repr

/-- Reasons for which an instruction is refused. -/
inductive Refusal where
  /-- Raised by an arm of `exec` whose instruction has no meaning yet, under the mnemonic of the opcode table. No arm
  raises it now. Safe: the model stops where the hardware goes on. -/
  | notModelled (mnemonic : String)
  deriving DecidableEq, Repr

/-- The outcome of a step of this machine. -/
abbrev Result := Host.Outcome State Fault Refusal

/-- The machine right after `power_on` and `reset(false)` over a memory with nothing listed (R28, R29; log 2). The
vector at 0xFFFC then reads 0x0000, the value PC has from power-on as well. -/
def State.reset : State where
  a := 0x00
  x := 0x00
  y := 0x00
  p := Config.powerOnP
  pc := 0x0000
  sp := Config.powerOnSP
  run := .running
  fault := none
  mem := []

end Sys2Proof.Machine
end

