-- ==== Sys2Proof/Machine/Ops.lean ====
section
/-! DEFINITION. The named operations over memory and registers: the memory port and its word accesses
(spec/20_memory.md R43 to R45), the register writes, the stack primitives (R101, R102), instruction fetch (R80),
raising a fatal condition (R224), and the frame of a handler inside a step (R80 to R84). There is no trap return
(R227); the instruction RTI is in Stack.lean. -/

namespace Sys2Proof.Machine

/-! ### Memory cells -/

/-- The byte a memory holds at an address; an address it does not list reads `Config.unlistedByte` (R24, log 1). -/
def Memory.read (m : Memory) (a : Nat) : Byte :=
  match m with
  | [] => Config.unlistedByte
  | (b, v) :: rest => if a = b then v else Memory.read rest a

/-- The memory without its entry for an address. -/
def Memory.unlist (m : Memory) (a : Nat) : Memory := m.filter (fun c => decide (c.1 ≠ a))

/-- The memory with an entry put before the first entry of a higher address. -/
def Memory.enlist (m : Memory) (a : Nat) (v : Byte) : Memory :=
  match m with
  | [] => [(a, v)]
  | (b, w) :: rest => if a < b then (a, v) :: (b, w) :: rest else (b, w) :: Memory.enlist rest a v

/-- Write one byte (R24, R41). Writing what an unlisted address reads as removes the entry. -/
def Memory.write (m : Memory) (a : Nat) (v : Byte) : Memory :=
  if v = Config.unlistedByte then m.unlist a else (m.unlist a).enlist a v

/-- The canonical form: addresses of the address space, strictly rising, and no entry equal to what an unlisted
address reads as. -/
abbrev Memory.wf (m : Memory) : Prop :=
  m.Pairwise (fun c d => c.1 < d.1) ∧ ∀ c ∈ m, c.1 < 65536 ∧ c.2 ≠ Config.unlistedByte

/-! ### Memory port and registers -/

/-- `MemRead(addr, 1)` (R43). -/
def State.read (s : State) (a : Addr) : Byte := s.mem.read a.toNat

/-- `MemWrite(addr, 1, v)` (R43). -/
def State.write (s : State) (a : Addr) (v : Byte) : State := { s with mem := s.mem.write a.toNat v }

/-- `MemRead(addr, 2)`: little-endian, the high byte at `addr + 1` within 16 bits (R44). -/
def State.readWord (s : State) (a : Addr) : Addr := concat (s.read (a + 1)) (s.read a)

/-- `MemWrite(addr, 2, v)`: low byte first, the high byte at `addr + 1` within 16 bits (R45). -/
def State.writeWord (s : State) (a : Addr) (w : Addr) : State := (s.write a (lowByte w)).write (a + 1) (highByte w)

/-- `A <- v`. -/
def State.setA (s : State) (v : Byte) : State := { s with a := v }

/-- `X <- v`. -/
def State.setX (s : State) (v : Byte) : State := { s with x := v }

/-- `Y <- v`. -/
def State.setY (s : State) (v : Byte) : State := { s with y := v }

/-- `P <- v`, all eight bits. -/
def State.setP (s : State) (v : Byte) : State := { s with p := v }

/-- `SP <- v`. -/
def State.setSP (s : State) (v : Byte) : State := { s with sp := v }

/-- `PC <- target`. -/
def State.setPC (s : State) (v : Addr) : State := { s with pc := v }

/-- `run <- r`. -/
def State.setRun (s : State) (r : RunState) : State := { s with run := r }

/-- One flag of P (R7). -/
def State.flag (s : State) (f : Flag) : Bool := getFlag f s.p

/-- `P.f <- v`. -/
def State.setFlag (s : State) (f : Flag) (v : Bool) : State := s.setP (putFlag f v s.p)

/-! ### Widening -/

/-- `zext_16(v)` (R7). -/
def zext (v : Byte) : Addr := v.setWidth 16

/-- `sext_16(v)`: `v` if `v < 128`, else `v + 0xFF00` (R7). -/
def sext (v : Byte) : Addr := v.signExtend 16

/-! ### The stack -/

/-- The stack address `{0x01, s}` of an SP value (R18). -/
def stackAddr (sp : Byte) : Addr := Config.stackPage + zext sp

/-- `Push(v)`: write, then decrement (R101). SP wraps; nothing is raised. -/
def State.push (s : State) (v : Byte) : State := (s.write (stackAddr s.sp) v).setSP (s.sp - 1)

/-- The value `Pop()` returns: the byte at the incremented SP (R102). -/
def State.popped (s : State) : Byte := s.read (stackAddr (s.sp + 1))

/-- The state `Pop()` leaves: SP incremented and the byte it read replaced by 0x00 (R102). -/
def State.afterPop (s : State) : State := (s.setSP (s.sp + 1)).write (stackAddr (s.sp + 1)) 0x00

/-! ### Fatal conditions -/

/-- `raise K(opc, pc0)` (R224): the record is written and the core enters FAULTED; nothing else changes. -/
def State.raise (s : State) (k : FatalKind) (opc : Byte) (pc0 : Addr) : State :=
  { s with run := .faulted, fault := some ⟨k, opc, pc0⟩ }

/-- Raise for the instruction at PC: the record holds "the opcode byte fetched and `pc0`" (R21; log 5). -/
def State.raiseHere (s : State) (k : FatalKind) : State := s.raise k (s.read s.pc) s.pc

/-! ### Fetch and decode -/

/-- Fetch and decode the instruction at PC through a given Operation Table; operand addresses wrap (R13, R63, R80;
log 6). -/
def fetchDecodeWith (table : Byte → Option Descriptor) (s : State) : Except DecodeError Instr :=
  decodeWith table (s.read s.pc) (s.read (s.pc + 1)) (s.read (s.pc + 2))

/-- Fetch and decode the instruction at PC. -/
def fetchDecode (s : State) : Except DecodeError Instr := fetchDecodeWith optable s

/-- What a step does when no instruction can be decoded at PC: UnknownOpcode (R221). No other condition arises at decode:
NotImplemented and AddressingModeMisuse are raised in the meanings (R222, R223), so a table that pairs a mnemonic with a
mode that is no row of R64 (SEC Immediate, INX ZeroPage, BCC Absolute) raises nothing here (DEDUCED, log 17). -/
def raiseDecodeError (e : DecodeError) (s : State) : State :=
  match e with
  | .unknownOpcode opc => s.raise .unknownOpcode opc s.pc

/-! ### The frame of a handler -/

/-- What a handler of R80 does: complete without writing PC (`pc_set` false), complete having written it (`pc_set`
true), or ask for the effective address of a mode that has none (R97). -/
inductive Handled where
  | fallThrough (s : State)
  | jumped (s : State)
  | misuse

/-- Run a handler for an instruction of a given length (R80 to R84): PC past the opcode, the handler, then PC by
`len - 1` unless the handler set it. Misuse raises with the state as it was before the step (R81, R223). -/
def runHandler (len : Nat) (h : State → Handled) (s : State) : Result :=
  match h (s.setPC (s.pc + 1)) with
  | .fallThrough t => .next (t.setPC (t.pc + BitVec.ofNat 16 (len - 1)))
  | .jumped t => .next t
  | .misuse => .next (s.raiseHere .addressingModeMisuse)

end Sys2Proof.Machine
end

