-- ==== Sys2Proof/Machine/Operands.lean ====
section
/-! DEFINITION. The effective address of every addressing mode (spec/40_step_and_addressing.md R86 to R97), the memory
operand (R98), and the shapes of handler that are built on them. All are evaluated inside a handler, with
`PC = pc0 + 1` (R82); the operand bytes are those of the decoded instruction (R62; log 6). -/

namespace Sys2Proof.Machine

/-- `EA(mode)`; `none` where the mode has no effective address (R97). -/
def effectiveAddress (o : Operand) (s : State) : Option Addr :=
  match o with
  | .immediate _ => some s.pc                                     -- R86
  | .relative _ => some s.pc                                      -- R87
  | .zeroPage b => some (zext b)                                  -- R88
  | .zeroPageX b => some (zext (b + s.x))                         -- R89
  | .zeroPageY b => some (zext (b + s.y))                         -- R90
  | .absolute w => some w                                         -- R91
  | .absoluteX w => some (w + zext s.x)                           -- R92
  | .absoluteY w => some (w + zext s.y)                           -- R93
  | .indirect w => some (s.readWord w)                            -- R94
  | .indirectX b => some (s.readWord (zext (b + s.x)))            -- R95
  | .indirectY b => some (s.readWord (zext b) + zext s.y)         -- R96
  | .implied => none                                              -- R97

/-- The memory operand `m = MemRead(EA(mode), 1)` (R98). For Immediate and Relative that byte is the operand byte
itself. -/
def memoryOperand (o : Operand) (s : State) : Option Byte :=
  match o with
  | .immediate b => some b
  | .relative b => some b
  | o => (effectiveAddress o s).map s.read

/-- A handler that reads the memory operand and does not write PC. -/
def withOperand (o : Operand) (k : Byte → State → State) (s : State) : Handled :=
  match memoryOperand o s with
  | some m => .fallThrough (k m s)
  | none => .misuse

/-- A handler that replaces the byte at the effective address, computed once, by `f` of it and writes P (R124, R150,
R151; D23). -/
def modifyMemory (o : Operand) (f : Byte → Byte) (flags : Byte → Byte → Byte) (s : State) : Handled :=
  match effectiveAddress o s with
  | some a => .fallThrough ((s.write a (f (s.read a))).setP (flags (s.read a) s.p))
  | none => .misuse

/-- A one-byte instruction whose handler changes the state and does not write PC. -/
def implied (f : State → State) (s : State) : Result :=
  runHandler Operand.implied.length (fun t => .fallThrough (f t)) s

/-- X takes a value; Z and N from it. -/
def loadX (v : Byte) (s : State) : State := (s.setX v).setP (setZN v s.p)

/-- Y takes a value; Z and N from it. -/
def loadY (v : Byte) (s : State) : State := (s.setY v).setP (setZN v s.p)

/-- A takes a value; Z and N from it. -/
def loadA (v : Byte) (s : State) : State := (s.setA v).setP (setZN v s.p)

end Sys2Proof.Machine
end

