-- ==== Sys2Proof/Machine/Arith.lean ====
section
/-! DEFINITION. ADC, AND, ORA, EOR (spec/41_adc_logic.md). -/

namespace Sys2Proof.Machine

/-- A takes a value computed from A and the operand; Z and N from it. -/
def logic (op : Byte → Byte → Byte) (o : Operand) (s : State) : Result :=
  runHandler o.length (withOperand o fun m t => loadA (op t.a m) t) s

/-- ADC (R110). -/
def execAdc (o : Operand) (s : State) : Result :=
  runHandler o.length
    (withOperand o fun m t => (t.setA (adcResult t.a m (t.flag .c))).setP (adcFlags t.a m t.p)) s

/-- AND (R111). -/
def execAnd (o : Operand) (s : State) : Result := logic (· &&& ·) o s

/-- ORA (R112). -/
def execOra (o : Operand) (s : State) : Result := logic (· ||| ·) o s

/-- EOR (R113). -/
def execEor (o : Operand) (s : State) : Result := logic (· ^^^ ·) o s

end Sys2Proof.Machine
end

