-- ==== Sys2Proof/Machine/Branch.lean ====
section
/-! DEFINITION. The eight conditional branches (spec/43_branches.md). -/

namespace Sys2Proof.Machine

/-- The branch handler (R130), PC on the displacement byte: taken when the condition holds and the displacement is not
zero, to the address after the branch plus the signed displacement. -/
def branchHandler (cond : Bool) (d : Byte) (s : State) : Handled :=
  if cond = true ∧ d ≠ 0 then .jumped (s.setPC (s.pc + 1 + sext d)) else .fallThrough s

/-- A branch on one flag having one value. -/
def branch (f : Flag) (v : Bool) (d : Byte) (s : State) : Result :=
  runHandler (Operand.relative d).length (fun t => branchHandler (t.flag f == v) d t) s

/-- BCC (R131). -/
def execBcc (d : Byte) (s : State) : Result := branch .c false d s

/-- BCS (R132). -/
def execBcs (d : Byte) (s : State) : Result := branch .c true d s

/-- BEQ (R133). -/
def execBeq (d : Byte) (s : State) : Result := branch .z true d s

/-- BMI (R134). -/
def execBmi (d : Byte) (s : State) : Result := branch .n true d s

/-- BNE (R135). -/
def execBne (d : Byte) (s : State) : Result := branch .z false d s

/-- BPL (R136). -/
def execBpl (d : Byte) (s : State) : Result := branch .n false d s

/-- BVC (R137). -/
def execBvc (d : Byte) (s : State) : Result := branch .v false d s

/-- BVS (R138). -/
def execBvs (d : Byte) (s : State) : Result := branch .v true d s

end Sys2Proof.Machine
end

