-- ==== Sys2Proof/Machine/Compare.lean ====
section
/-! DEFINITION. BIT, CMP, CPX, CPY (spec/44_bit_compare.md): flags only. -/

namespace Sys2Proof.Machine

/-- Compare a register with the memory operand. -/
def compareWith (reg : State → Byte) (o : Operand) (s : State) : Result :=
  runHandler o.length (withOperand o fun m t => t.setP (compareFlags (reg t) m t.p)) s

/-- BIT (R140). -/
def execBit (o : Operand) (s : State) : Result :=
  runHandler o.length (withOperand o fun m t => t.setP (bitFlags t.a m t.p)) s

/-- CMP (R141). -/
def execCmp (o : Operand) (s : State) : Result := compareWith State.a o s

/-- CPX (R142). -/
def execCpx (o : Operand) (s : State) : Result := compareWith State.x o s

/-- CPY (R143). -/
def execCpy (o : Operand) (s : State) : Result := compareWith State.y o s

end Sys2Proof.Machine
end

