-- ==== Sys2Proof/Machine/FlagOps.lean ====
section
/-! DEFINITION. CLC, CLD, CLI, CLV, NOP, BRK (spec/48_flags_nop_brk.md). -/

namespace Sys2Proof.Machine

/-- CLC (R190). -/
def execClc (s : State) : Result := implied (fun t => t.setFlag .c false) s

/-- CLD (R191). -/
def execCld (s : State) : Result := implied (fun t => t.setFlag .d false) s

/-- CLI (R192). -/
def execCli (s : State) : Result := implied (fun t => t.setFlag .i false) s

/-- CLV (R193). -/
def execClv (s : State) : Result := implied (fun t => t.setFlag .v false) s

/-- NOP (R194). -/
def execNop (s : State) : Result := implied (fun t => t) s

/-- BRK (R195, R196): the core halts; nothing is pushed and no vector is read (D16). -/
def execBrk (s : State) : Result := implied (fun t => t.setRun .halted) s

end Sys2Proof.Machine
end

