-- ==== Sys2Proof/Machine/IncDecLoad.lean ====
section
/-! DEFINITION. DEC, INC, DEX, DEY, INX, INY, LDA, LDX, LDY, TAX, TAY (spec/45_incdec_load_transfer.md). -/

namespace Sys2Proof.Machine

/-- DEC (R150). -/
def execDec (o : Operand) (s : State) : Result :=
  runHandler o.length (modifyMemory o (· - 1) (fun v p => setZN (v - 1) p)) s

/-- INC (R151). -/
def execInc (o : Operand) (s : State) : Result :=
  runHandler o.length (modifyMemory o (· + 1) (fun v p => setZN (v + 1) p)) s

/-- DEX (R152). -/
def execDex (s : State) : Result := implied (fun t => loadX (t.x - 1) t) s

/-- DEY (R153). -/
def execDey (s : State) : Result := implied (fun t => loadY (t.y - 1) t) s

/-- INX (R154). -/
def execInx (s : State) : Result := implied (fun t => loadX (t.x + 1) t) s

/-- INY (R155). -/
def execIny (s : State) : Result := implied (fun t => loadY (t.y + 1) t) s

/-- LDA (R156). -/
def execLda (o : Operand) (s : State) : Result := runHandler o.length (withOperand o loadA) s

/-- LDX (R157). -/
def execLdx (o : Operand) (s : State) : Result := runHandler o.length (withOperand o loadX) s

/-- LDY (R158). -/
def execLdy (o : Operand) (s : State) : Result := runHandler o.length (withOperand o loadY) s

/-- TAX (R159). -/
def execTax (s : State) : Result := implied (fun t => loadX t.a t) s

/-- TAY (R160). -/
def execTay (s : State) : Result := implied (fun t => loadY t.a t) s

end Sys2Proof.Machine
end

