-- ==== Sys2Proof/Machine/Jump.lean ====
section
/-! DEFINITION. JMP, JSR (spec/46_jump_subroutine.md). -/

namespace Sys2Proof.Machine

/-- JMP (R170, R171): PC takes the effective address of the mode. -/
def execJmp (o : Operand) (s : State) : Result :=
  runHandler o.length
    (fun t =>
      match effectiveAddress o t with
      | some a => .jumped (t.setPC a)
      | none => .misuse) s

/-- JSR (R172): the address of the instruction's last byte is pushed, high byte first, and PC takes the target. Inside
the handler that address is `PC + 1`. -/
def execJsr (target : Addr) (s : State) : Result :=
  runHandler (Operand.absolute target).length
    (fun t => .jumped (((t.push (highByte (t.pc + 1))).push (lowByte (t.pc + 1))).setPC target)) s

end Sys2Proof.Machine
end

