-- ==== Sys2Proof/Machine/Shift.lean ====
section
/-! DEFINITION. ASL, LSR, ROL, ROR (spec/42_shift_rotate.md). -/

namespace Sys2Proof.Machine

/-- The shared handler (R124): the operand is A in Implied mode, and otherwise the byte at the effective address, to
which the result is written back. -/
def shiftHandler (op : Bool → Byte → Byte × Bool) (o : Operand) (s : State) : Handled :=
  match o with
  | .implied =>
    let r := op (s.flag .c) s.a
    .fallThrough ((s.setA r.1).setP (shiftFlags r s.p))
  | o => modifyMemory o (fun v => (op (s.flag .c) v).1) (fun v p => shiftFlags (op (s.flag .c) v) p) s

/-- ASL (R120). -/
def execAsl (o : Operand) (s : State) : Result := runHandler o.length (shiftHandler aslOp o) s

/-- LSR (R121). -/
def execLsr (o : Operand) (s : State) : Result := runHandler o.length (shiftHandler lsrOp o) s

/-- ROL (R122). -/
def execRol (o : Operand) (s : State) : Result := runHandler o.length (shiftHandler rolOp o) s

/-- ROR (R123). -/
def execRor (o : Operand) (s : State) : Result := runHandler o.length (shiftHandler rorOp o) s

end Sys2Proof.Machine
end

