-- ==== Sys2Proof/Machine/Stack.lean ====
section
/-! DEFINITION. PHA, PHP, PLA, PLP, RTI (spec/47_stack_rti.md). -/

namespace Sys2Proof.Machine

/-- PHA (R180). -/
def execPha (s : State) : Result := implied (fun t => t.push t.a) s

/-- PHP (R181): all eight bits of P as they stand (D15). -/
def execPhp (s : State) : Result := implied (fun t => t.push t.p) s

/-- PLA (R182). -/
def execPla (s : State) : Result := implied (fun t => loadA t.popped t.afterPop) s

/-- PLP (R183): all eight bits of P replaced. -/
def execPlp (s : State) : Result := implied (fun t => t.afterPop.setP t.popped) s

/-- RTI (R184): P, then the low byte of PC, then its high byte. -/
def execRti (s : State) : Result :=
  runHandler Operand.implied.length
    (fun t =>
      let t1 := t.afterPop.setP t.popped
      let t2 := t1.afterPop
      .jumped (t2.afterPop.setPC (concat t2.popped t1.popped))) s

end Sys2Proof.Machine
end

