-- ==== Sys2Proof/Machine/Unimplemented.lean ====
section
/-! DEFINITION. SBC, STA, STX, STY, SEC, SED, SEI, TSX, TXA, TXS, TYA, RTS (spec/49_unimplemented.md). In this hardware
each of the twelve raises the fatal condition NotImplemented, and that is its whole behaviour (R212): "a model must
not give them" the meaning they have on a MOS 6502. The operand is never used. -/

namespace Sys2Proof.Machine

/-- `raise NotImplemented(opc, pc0)` before anything changes (R212, R222, R81). -/
def notImplemented (s : State) : Result := .next (s.raiseHere .notImplemented)

/-- SBC (R200). -/
def execSbc (_o : Operand) (s : State) : Result := notImplemented s

/-- STA (R201). -/
def execSta (_o : Operand) (s : State) : Result := notImplemented s

/-- STX (R202). -/
def execStx (_o : Operand) (s : State) : Result := notImplemented s

/-- STY (R203). -/
def execSty (_o : Operand) (s : State) : Result := notImplemented s

/-- SEC (R204). -/
def execSec (s : State) : Result := notImplemented s

/-- SED (R205). -/
def execSed (s : State) : Result := notImplemented s

/-- SEI (R206). -/
def execSei (s : State) : Result := notImplemented s

/-- TSX (R207). -/
def execTsx (s : State) : Result := notImplemented s

/-- TXA (R208). -/
def execTxa (s : State) : Result := notImplemented s

/-- TXS (R209). -/
def execTxs (s : State) : Result := notImplemented s

/-- TYA (R210). -/
def execTya (s : State) : Result := notImplemented s

/-- RTS (R211). -/
def execRts (s : State) : Result := notImplemented s

end Sys2Proof.Machine
end

