-- ==== Sys2Proof/Machine/Step.lean ====
section
/-! DEFINITION. One step of the core (spec/40_step_and_addressing.md R80), and how a word of the opcode table is put
where the step fetches. -/

namespace Sys2Proof.Machine

/-- The `step` event (R80): nothing on a HALTED or FAULTED core (R20, D21); otherwise fetch, decode, and execute one
instruction or raise one fatal condition. -/
def step (s : State) : Host.Outcome State Fault Refusal :=
  match s.run with
  | .running =>
    match fetchDecode s with
    | .ok i => exec i s
    | .error e => .next (raiseDecodeError e s)
  | .halted => .next s
  | .faulted => .next s

/-- The state with a word of the opcode table (`nbits` bits, bit 0 the least significant bit of the first byte) stored
as three bytes at PC, and running, so that the next step fetches and runs it. It stands for the load of a program from
outside (log 3). -/
def State.withFetchWord (s : State) (nbits w : Nat) : State :=
  (((s.write s.pc (tableByte nbits w 0)).write (s.pc + 1) (tableByte nbits w 1)).write
    (s.pc + 2) (tableByte nbits w 2)).setRun .running

end Sys2Proof.Machine
end

