-- ==== Sys2Proof/Machine/Events.lean ====
section
/-! DEFINITION. The host's side of the core: the control events `power_on` and `reset` (spec/10_state.md R25, R28, R29;
spec/70_reset_and_hazards.md R250 to R255), the program loader and the boot sequence (R256, R258), and the observation
outputs (R26). The third event, `step`, is in Step.lean. -/

namespace Sys2Proof.Machine

/-- `power_on` (R28, R250). The memory's contents are the spec's open parameter `MEM_INIT` (D19). -/
def State.powerOn (memInit : Memory) : State where
  a := 0x00
  x := 0x00
  y := 0x00
  p := Config.powerOnP
  pc := 0x0000
  sp := Config.powerOnSP
  run := .running
  fault := none
  mem := memInit

/-- A, X, Y and all eight bits of P zeroed (R252). -/
def State.zeroRegisters (s : State) : State := (((s.setA 0x00).setX 0x00).setY 0x00).setP 0x00

/-- What reset does to the run state (R254): HALTED goes to RUNNING, FAULTED stays. -/
def RunState.afterReset : RunState → RunState
  | .running => .running
  | .halted => .running
  | .faulted => .faulted

/-- `reset(reset_mode)` (R29, R251): registers and flags zeroed if the input says so, PC reloaded from the vector. SP,
the memory and the fault record are not written (R253). -/
def State.resetEvent (resetMode : Bool) (s : State) : State :=
  let t := if resetMode then s.zeroRegisters else s
  (t.setPC (t.readWord Config.resetVector)).setRun t.run.afterReset

/-- The control events (R25). -/
inductive Event where
  | powerOn (memInit : Memory)
  | reset (resetMode : Bool)
  | step
  deriving DecidableEq, Repr

/-- The core's response to one control event. -/
def event (e : Event) (s : State) : Result :=
  match e with
  | .powerOn m => .next (State.powerOn m)
  | .reset mode => .next (s.resetEvent mode)
  | .step => step s

/-- Bytes written at rising addresses from `a`. -/
def State.writeBytes (s : State) (a : Addr) (bytes : List Byte) : State :=
  match bytes with
  | [] => s
  | b :: rest => State.writeBytes (s.write a b) (a + 1) rest

/-- Why the host's load fails; not a condition of the core (R229). -/
inductive LoadError where
  /-- The image does not fit between 0x8000 and the top of the address space. -/
  | outOfRange
  deriving DecidableEq, Repr

/-- The host's loader (R258): checks the length first and writes nothing on failure (D22); else copies the image to
0x8000 and then writes 0x8000 into the reset vector. -/
def loadProgram (bytes : List Byte) (s : State) : Except LoadError State :=
  if bytes.length > 0x8000 then .error .outOfRange
  else .ok ((s.writeBytes Config.programOrigin bytes).writeWord Config.resetVector Config.programOrigin)

/-- The boot sequence up to the first step (R256): power-on, load, reset. -/
def boot (memInit : Memory) (bytes : List Byte) (resetMode : Bool) : Except LoadError State :=
  match loadProgram bytes (State.powerOn memInit) with
  | .ok s => .ok (s.resetEvent resetMode)
  | .error e => .error e

/-- The observation outputs (R26): registers, each bit of P, PC, SP, `run` and `fault`. -/
structure Snapshot where
  a : Byte
  x : Byte
  y : Byte
  c : Bool
  z : Bool
  i : Bool
  d : Bool
  b : Bool
  u : Bool
  v : Bool
  n : Bool
  pc : Addr
  sp : Byte
  run : RunState
  fault : Option FaultRecord
  deriving DecidableEq, Repr

/-- What the host sees between steps (R26); it reads memory through `State.read` and `State.readWord`. -/
def State.snapshot (s : State) : Snapshot where
  a := s.a
  x := s.x
  y := s.y
  c := s.flag .c
  z := s.flag .z
  i := s.flag .i
  d := s.flag .d
  b := s.flag .b
  u := s.flag .u
  v := s.flag .v
  n := s.flag .n
  pc := s.pc
  sp := s.sp
  run := s.run
  fault := s.fault

end Sys2Proof.Machine
end

