-- ==== Sys2Proof/Safety.lean ====
section
/-! DEFINITION. What claims about the machine are stated in: the frame of an instruction, which state the spec says an
instruction writes, the invariant every step keeps, and the two ways a run ends. -/

namespace Sys2Proof.Machine

/-! ### Frames -/

/-- The 8-bit registers a frame speaks of one by one; P is spoken of flag by flag. -/
inductive Reg where
  | a | x | y | sp
  deriving DecidableEq, Repr

/-- The value of a register. -/
def State.reg (s : State) : Reg → Byte
  | .a => s.a
  | .x => s.x
  | .y => s.y
  | .sp => s.sp

/-- From `s` to `t` nothing changes but PC, the named registers, the named flags and the bytes at the named addresses.
The eight flags are all of P. -/
structure Frame (regs : List Reg) (flags : List Flag) (cells : List Addr) (s t : State) : Prop where
  regs_kept : ∀ r, r ∉ regs → t.reg r = s.reg r
  flags_kept : ∀ f, f ∉ flags → t.flag f = s.flag f
  memory_kept : ∀ a, a ∉ cells → t.read a = s.read a
  run_kept : t.run = s.run
  fault_kept : t.fault = s.fault

/-- Zero and Negative are those of the value (R100). -/
def ZeroNegativeOf (v : Byte) (t : State) : Prop :=
  (t.flag .z = true ↔ v = 0) ∧ (t.flag .n = true ↔ 128 ≤ v.toNat)

/-- What each shift makes of an operand byte and the incoming Carry, as unbounded arithmetic: the result and the bit
shifted out (spec/42_shift_rotate.md R120 to R123). -/
def ShiftsTo (ins : Operand → Instr) (v c r out : Nat) : Prop :=
  (ins = .asl ∧ r = v * 2 % 256 ∧ out = v / 128) ∨ (ins = .lsr ∧ r = v / 2 ∧ out = v % 2) ∨
  (ins = .rol ∧ r = v * 2 % 256 + c ∧ out = v / 128) ∨ (ins = .ror ∧ r = v / 2 + c * 128 ∧ out = v % 2)

/-- The state a handler runs in: PC past the opcode byte (R82). -/
def State.inHandler (s : State) : State := s.setPC (s.pc + 1)

end Sys2Proof.Machine

namespace Sys2Proof

open Machine

/-- The eight modes of ADC, AND, ORA, EOR, CMP and LDA, in the order of those rules' Encoding lines. -/
def Mode.eight : List Mode :=
  [.immediate, .zeroPage, .zeroPageX, .absolute, .absoluteX, .absoluteY, .indirectX, .indirectY]

/-! ### What the spec says each instruction writes -/

/-- The twelve mnemonics without a handler (R67, R222). -/
def Mnemonic.unimplemented : Mnemonic → Bool
  | .sbc | .sta | .stx | .sty | .sec | .sed | .sei | .tsx | .txa | .txs | .tya | .rts => true
  | .adc | .and | .ora | .eor | .asl | .lsr | .rol | .ror
  | .bcc | .bcs | .beq | .bmi | .bne | .bpl | .bvc | .bvs
  | .bit | .cmp | .cpx | .cpy | .dec | .inc | .dex | .dey | .inx | .iny
  | .lda | .ldx | .ldy | .tax | .tay | .jmp | .jsr
  | .pha | .php | .pla | .plp | .rti | .clc | .cld | .cli | .clv | .nop | .brk => false

/-- The flags a mnemonic writes (the table of R15). -/
def Mnemonic.flagsWritten : Mnemonic → List Flag
  | .adc => [.c, .z, .v, .n]
  | .asl | .lsr | .rol | .ror | .cmp | .cpx | .cpy => [.c, .z, .n]
  | .and | .ora | .eor | .dec | .inc | .dex | .dey | .inx | .iny | .lda | .ldx | .ldy | .tax | .tay | .pla =>
      [.z, .n]
  | .bit => [.z, .v, .n]
  | .plp | .rti => [.c, .z, .i, .d, .b, .u, .v, .n]
  | .clc => [.c]
  | .cld => [.d]
  | .cli => [.i]
  | .clv => [.v]
  | .bcc | .bcs | .beq | .bmi | .bne | .bpl | .bvc | .bvs | .jmp | .jsr | .pha | .php | .nop | .brk
  | .sbc | .sta | .stx | .sty | .sec | .sed | .sei | .tsx | .txa | .txs | .tya | .rts => []

/-- The registers an instruction writes (the table of R11; SP by R19). ASL, LSR, ROL and ROR write A in Implied mode
only. -/
def Instr.regsWritten : Instr → List Reg
  | .adc _ | .and _ | .ora _ | .eor _ | .lda _ => [.a]
  | .asl o | .lsr o | .rol o | .ror o => if o = .implied then [.a] else []
  | .ldx _ | .tax | .dex | .inx => [.x]
  | .ldy _ | .tay | .dey | .iny => [.y]
  | .pla => [.a, .sp]
  | .pha | .php | .plp | .rti | .jsr _ => [.sp]
  | .bcc _ | .bcs _ | .beq _ | .bmi _ | .bne _ | .bpl _ | .bvc _ | .bvs _
  | .bit _ | .cmp _ | .cpx _ | .cpy _ | .dec _ | .inc _ | .jmp _
  | .clc | .cld | .cli | .clv | .nop | .brk
  | .sbc _ | .sta _ | .stx _ | .sty _ | .sec | .sed | .sei | .tsx | .txa | .txs | .tya | .rts => []

/-- What an instruction adds to SP, modulo 256 (R19, R101, R102). -/
def Mnemonic.stackEffect : Mnemonic → Byte
  | .pha | .php => -1
  | .jsr => -2
  | .pla | .plp => 1
  | .rti => 3
  | .adc | .and | .ora | .eor | .asl | .lsr | .rol | .ror
  | .bcc | .bcs | .beq | .bmi | .bne | .bpl | .bvc | .bvs
  | .bit | .cmp | .cpx | .cpy | .dec | .inc | .dex | .dey | .inx | .iny
  | .lda | .ldx | .ldy | .tax | .tay | .jmp | .clc | .cld | .cli | .clv | .nop | .brk
  | .sbc | .sta | .stx | .sty | .sec | .sed | .sei | .tsx | .txa | .txs | .tya | .rts => 0

/-- The addresses an instruction stores to (the table of R42), computed as its meaning computes them: the effective
address of a read-modify-write, the slot of each push, and the slot of each pop, which is zeroed. -/
def Instr.storesTo (i : Instr) (s : State) : List Addr :=
  match i with
  | .asl o | .lsr o | .rol o | .ror o | .dec o | .inc o => (effectiveAddress o s.inHandler).toList
  | .pha | .php => [stackAddr s.sp]
  | .jsr _ => [stackAddr s.sp, stackAddr (s.sp - 1)]
  | .pla | .plp => [stackAddr (s.sp + 1)]
  | .rti => [stackAddr (s.sp + 1), stackAddr (s.sp + 2), stackAddr (s.sp + 3)]
  | .adc _ | .and _ | .ora _ | .eor _
  | .bcc _ | .bcs _ | .beq _ | .bmi _ | .bne _ | .bpl _ | .bvc _ | .bvs _
  | .bit _ | .cmp _ | .cpx _ | .cpy _ | .dex | .dey | .inx | .iny
  | .lda _ | .ldx _ | .ldy _ | .tax | .tay | .jmp _
  | .clc | .cld | .cli | .clv | .nop | .brk
  | .sbc _ | .sta _ | .stx _ | .sty _ | .sec | .sed | .sei | .tsx | .txa | .txs | .tya | .rts => []

/-- The flag a branch tests and the value it branches on (R131 to R138). -/
def Instr.branchTest : Instr → Option (Flag × Bool × Byte)
  | .bcc d => some (.c, false, d)
  | .bcs d => some (.c, true, d)
  | .beq d => some (.z, true, d)
  | .bmi d => some (.n, true, d)
  | .bne d => some (.z, false, d)
  | .bpl d => some (.n, false, d)
  | .bvc d => some (.v, false, d)
  | .bvs d => some (.v, true, d)
  | _ => none

/-- A taken branch: "a branch instruction whose condition holds and whose displacement is not zero" (R9). -/
def Instr.takenBranch (i : Instr) (s : State) : Bool :=
  match i.branchTest with
  | some (f, v, d) => s.flag f == v && d != 0
  | none => false

/-- The instruction sets PC directly: "JMP, JSR, a taken branch, or RTI" (R84). -/
def Instr.setsPC (i : Instr) (s : State) : Bool :=
  i.mnemonic = .jmp || i.mnemonic = .jsr || i.mnemonic = .rti || i.takenBranch s

end Sys2Proof

namespace Sys2Proof.Machine

/-! ### The invariant, and how runs end -/

/-- A fault record is one a step can have written: its opcode byte is in no row, or in a row of one of the twelve
mnemonics; AddressingModeMisuse is unreachable with the spec's table (R220 to R223). -/
def FaultRecord.sound (r : FaultRecord) : Prop :=
  match r.kind with
  | .unknownOpcode => optable r.opcode = none
  | .notImplemented => ∃ d, optable r.opcode = some d ∧ d.mnemonic.unimplemented = true
  | .addressingModeMisuse => False

/-- The invariant of the machine: the memory is in canonical form, there is a fault record exactly when the core is
FAULTED, and the record is sound. -/
structure State.Inv (s : State) : Prop where
  memory_canonical : s.mem.wf
  record_iff_faulted : s.run = .faulted ↔ s.fault.isSome = true
  record_sound : ∀ r, s.fault = some r → r.sound

/-- The normal end of a run: HALTED after a BRK (R260). -/
def State.normalEnd (s : State) : Prop := s.run = .halted ∧ s.fault = none

/-- The abnormal end of a run: FAULTED after a fatal condition (R260). -/
def State.abnormalEnd (s : State) : Prop := s.run = .faulted ∧ s.fault.isSome = true

end Sys2Proof.Machine
end

