-- ==== Sys2Proof/Machine/Table.lean ====
section
/-! DEFINITION. The step through any Operation Table, the parameter `OPTABLE` of spec/00_scope.md R5. `step` (Step.lean)
is this with the spec's table, as an obligation says. A pair that is no row of spec/30_encoding.md R64 has no rule that
names it; what such a pair does here is read from R80, R83, R97, R99 and R223 (DEDUCED, log 17): no mode but Implied
faults. -/

namespace Sys2Proof.Machine

/-- The meaning of an instruction whose length the descriptor gives (R63, R84): where neither a condition is raised nor
PC is set by the instruction, PC ends at `pc0 + len`. -/
def execWithLength (len : Nat) (i : Instr) (s : State) : Result :=
  match exec i s with
  | .next t =>
    if t.run = .faulted ∨ i.setsPC s = true then .next t
    else .next (t.setPC (s.pc + BitVec.ofNat 16 len))
  | .fault r => .fault r
  | .refused r => .refused r

/-- The `step` event through a given table, in the order of R80: UnknownOpcode first, then NotImplemented (the meaning of
each of the twelve, in any mode), then the handler, which raises AddressingModeMisuse only on evaluating `EA(Implied)`. -/
def stepWith (table : Byte → Option Descriptor) (s : State) : Result :=
  match s.run with
  | .running =>
    match table (s.read s.pc) with
    | none => .next (s.raise .unknownOpcode (s.read s.pc) s.pc)
    | some d => execWithLength d.length (d.instr (s.read (s.pc + 1)) (s.read (s.pc + 2))) s
  | .halted => .next s
  | .faulted => .next s

end Sys2Proof.Machine
end

