-- ==== Sys2Proof/Certificates/Slice0/Obligations.lean ====
section
/-! DEFINITION. The statements for the provers. A docstring says which rule or section of spec/ a statement formalises;
where the spec marks that point as its own decision (D<n> of 92_eei_decisions.md), the docstring names the decision.
`s.inHandler` is `s` with PC past the opcode byte, the state a handler's operand is evaluated in (R82). -/

open Sys2Proof Sys2Proof.Machine

/-! ### Decoding and encoding -/

/-- Decoding the bytes of a well-formed instruction gives the instruction back and leaves the bytes after it
(30_encoding.md sections 1 to 3; the table itself is decision D1). -/
def Obligations.DecodeReadsBackEncode : Prop :=
  ∀ (i : Instr) (rest : List Byte), i.wellFormed = true →
    ∃ bytes, encode i = some bytes ∧ decode (bytes ++ rest) = .ok (i, rest)

/-- What the decoder answers is well formed, and it is what the bytes it took encode: no two byte strings decode to
one instruction, and no byte is skipped (30_encoding.md sections 1 to 3, decision D1). -/
def Obligations.DecodedInstructionEncodesBack : Prop :=
  ∀ (bytes rest : List Byte) (i : Instr), decode bytes = .ok (i, rest) →
    i.wellFormed = true ∧ ∃ head, encode i = some head ∧ bytes = head ++ rest

/-- The instruction words the source itself shows (R65), and one of each other family from R64, decode to the
instructions they stand for. -/
def Obligations.WordsOfTheSpecDecode : Prop :=
  decode [0xA9, 0x05, 0x00] = .ok (.lda (.immediate 0x05), [0x00]) ∧
  decode [0x69, 0x01, 0x00] = .ok (.adc (.immediate 0x01), [0x00]) ∧
  decode [0x90, 0x02, 0xA9] = .ok (.bcc 0x02, [0xA9]) ∧
  decode [0x20, 0x05, 0x80, 0xA2] = .ok (.jsr 0x8005, [0xA2]) ∧
  decode [0xA2, 0x01] = .ok (.ldx (.immediate 0x01), []) ∧
  decode [0x00] = .ok (.brk, []) ∧
  decode [0x0A, 0x77] = .ok (.asl .implied, [0x77]) ∧
  decode [0x7E, 0xF0, 0x12] = .ok (.ror (.absoluteX 0x12F0), []) ∧
  decode [0x2C, 0x34, 0x12] = .ok (.bit (.absolute 0x1234), []) ∧
  decode [0x6C, 0xFF, 0x10] = .ok (.jmp (.indirect 0x10FF), []) ∧
  decode [0xB6, 0xFF] = .ok (.ldx (.zeroPageY 0xFF), []) ∧
  decode [0x71, 0x20] = .ok (.adc (.indirectY 0x20), []) ∧
  decode [0x41, 0x1E] = .ok (.eor (.indirectX 0x1E), []) ∧
  decode [0x40] = .ok (.rti, []) ∧
  decode [0x85, 0x10] = .ok (.sta (.zeroPage 0x10), []) ∧
  decode [0x1A, 0x00] = .error (.rejected (.unknownOpcode 0x1A))

/-- R66 to R68 (the table is decision D1): the 105 bytes listed in R66 are exactly those in no row; of the other 151,
29 belong to the twelve unimplemented mnemonics and 122 have semantics. -/
def Obligations.OpcodeMapPartition : Prop :=
  (∀ opc : Byte, optable opc = none ↔ opc ∈
    ([0x02, 0x03, 0x04, 0x07, 0x0B, 0x0C, 0x0F, 0x12, 0x13, 0x14, 0x17, 0x1A, 0x1B, 0x1C, 0x1F] ++
     [0x22, 0x23, 0x27, 0x2B, 0x2F, 0x32, 0x33, 0x34, 0x37, 0x3A, 0x3B, 0x3C, 0x3F] ++
     [0x42, 0x43, 0x44, 0x47, 0x4B, 0x4F, 0x52, 0x53, 0x54, 0x57, 0x5A, 0x5B, 0x5C, 0x5F] ++
     [0x62, 0x63, 0x64, 0x67, 0x6B, 0x6F, 0x72, 0x73, 0x74, 0x77, 0x7A, 0x7B, 0x7C, 0x7F] ++
     [0x80, 0x82, 0x83, 0x87, 0x89, 0x8B, 0x8F, 0x92, 0x93, 0x97, 0x9B, 0x9C, 0x9E, 0x9F] ++
     [0xA3, 0xA7, 0xAB, 0xAF, 0xB2, 0xB3, 0xB7, 0xBB, 0xBF] ++
     [0xC2, 0xC3, 0xC7, 0xCB, 0xCF, 0xD2, 0xD3, 0xD4, 0xD7, 0xDA, 0xDB, 0xDC, 0xDF] ++
     [0xE2, 0xE3, 0xE7, 0xEB, 0xEF, 0xF2, 0xF3, 0xF4, 0xF7, 0xFA, 0xFB, 0xFC, 0xFF] : List Byte)) ∧
  ((List.range 256).filter fun k => (optable (BitVec.ofNat 8 k)).isNone).length = 105 ∧
  ((List.range 256).filter fun k => (optable (BitVec.ofNat 8 k)).any (·.mnemonic.unimplemented)).length = 29 ∧
  ((List.range 256).filter fun k => (optable (BitVec.ofNat 8 k)).any (!·.mnemonic.unimplemented)).length = 122

/-! ### The step -/

/-- R80: when the bytes at PC decode to an instruction, a step of a running core is `exec` of it on that state; the
step adds nothing around it, and `exec` itself moves PC past the instruction's bytes. -/
def Obligations.StepRunsTheDecodedInstruction : Prop :=
  ∀ (s : State) (i : Instr) (rest : List Byte), s.run = .running →
    decode [s.read s.pc, s.read (s.pc + 1), s.read (s.pc + 2)] = .ok (i, rest) →
    i.wellFormed = true ∧ step s = exec i s

/-- A step requested of a HALTED or FAULTED core changes nothing (decision D21). -/
def Obligations.StoppedCoreIgnoresStep : Prop :=
  ∀ s : State, s.run ≠ .running → step s = .next s

/-- A byte in no row raises UnknownOpcode: the record and the run state are written and nothing else, PC still on the
offending byte (60_exceptions.md sections 1 and 2, decision D17). -/
def Obligations.UnknownOpcodeStops : Prop :=
  ∀ s : State, s.run = .running → optable (s.read s.pc) = none →
    step s = .next { s with run := .faulted, fault := some ⟨.unknownOpcode, s.read s.pc, s.pc⟩ }

/-- The twelve unimplemented mnemonics raise NotImplemented, on every operand, and that is their whole effect
(49_unimplemented.md, decision D17). -/
def Obligations.UnimplementedMnemonicsRaise : Prop :=
  ∀ (o : Operand) (s : State),
    ∀ i ∈ [Instr.sbc o, .sta o, .stx o, .sty o, .sec, .sed, .sei, .tsx, .txa, .txs, .tya, .rts],
      exec i s = .next { s with run := .faulted, fault := some ⟨.notImplemented, s.read s.pc, s.pc⟩ }

/-- The same seen from the memory: a step of a running core whose PC is on one of the 29 bytes of R67 raises
NotImplemented with that byte and address, and changes nothing else (decision D17). -/
def Obligations.UnimplementedByteStops : Prop :=
  ∀ (s : State) (d : Descriptor), s.run = .running → optable (s.read s.pc) = some d →
    d.mnemonic.unimplemented = true →
    step s = .next { s with run := .faulted, fault := some ⟨.notImplemented, s.read s.pc, s.pc⟩ }

/-- Every step answers a next state: neither the model's fault nor a refusal ends a run (60_exceptions.md sections 1
and 5; that a fatal condition is a next state of the FAULTED core is decision D17). -/
def Obligations.EveryStepAnswersNext : Prop :=
  ∀ s : State, ∃ t, step s = .next t

/-- When a step raises a fatal condition, the registers, P, SP, PC and the memory are those before the step, and the
record names the byte at PC and PC (60_exceptions.md section 2, decision D17). -/
def Obligations.FatalConditionChangesNothingElse : Prop :=
  ∀ s t : State, s.run = .running → step s = .next t → t.run = .faulted →
    ∃ k, t = { s with run := .faulted, fault := some ⟨k, s.read s.pc, s.pc⟩ }

/-- R84: after an instruction PC is `pc0 + len` modulo 65536, unless the instruction is JMP, JSR, a taken branch or RTI.
A branch not taken and BRK are advanced like any other; an unimplemented mnemonic has no handler. -/
def Obligations.PcAdvancesByLength : Prop :=
  ∀ (i : Instr) (s : State), i.wellFormed = true → i.mnemonic.unimplemented = false → i.setsPC s = false →
    ∃ t, exec i s = .next t ∧ t.pc.toNat = (s.pc.toNat + i.length) % 65536

/-! ### Fatal conditions -/

/-- A handler that asks for the effective address of Implied raises AddressingModeMisuse with the state as before
(60_exceptions.md section 1, 40_step_and_addressing.md section 2; decision D17 for what a raise does). Such pairs are
no row of the table. -/
def Obligations.ImpliedOperandIsMisuse : Prop :=
  ∀ (s : State), ∀ i ∈ [Instr.adc .implied, .and .implied, .ora .implied, .eor .implied, .bit .implied,
      .cmp .implied, .cpx .implied, .cpy .implied, .dec .implied, .inc .implied,
      .lda .implied, .ldx .implied, .ldy .implied, .jmp .implied],
    i.wellFormed = false ∧
    exec i s = .next { s with run := .faulted, fault := some ⟨.addressingModeMisuse, s.read s.pc, s.pc⟩ }

/-- Executing a well-formed instruction leaves `run` and `fault` alone, or halts if it is BRK, or enters FAULTED with
NotImplemented if its mnemonic is one of the twelve: AddressingModeMisuse is unreachable with the spec's table
(60_exceptions.md section 1, 10_state.md section 5, decision D17). -/
def Obligations.RunStateChangesOnlyAsStated : Prop :=
  ∀ (i : Instr) (s : State), i.wellFormed = true → ∃ t, exec i s = .next t ∧
    (if i = .brk then t.run = .halted ∧ t.fault = s.fault
     else if i.mnemonic.unimplemented then
       t.run = .faulted ∧ t.fault = some ⟨.notImplemented, s.read s.pc, s.pc⟩
     else t.run = s.run ∧ t.fault = s.fault)

/-! ### The invariant -/

/-- Headline: every step keeps the invariant, from every state that meets it. The memory stays in canonical form,
there is a fault record exactly when the core is FAULTED, and a record is one the opcode table justifies. -/
def Obligations.StepKeepsInvariant : Prop :=
  ∀ s t : State, s.Inv → step s = .next t → t.Inv

/-- The state after reset meets the invariant. -/
def Obligations.ResetMeetsInvariant : Prop :=
  State.reset.Inv

/-- So does the power-on state over any canonical memory; the reset event and the loader keep it. -/
def Obligations.HostEventsKeepInvariant : Prop :=
  (∀ m : Memory, m.wf → (State.powerOn m).Inv) ∧
  (∀ (mode : Bool) (s : State), s.Inv → (s.resetEvent mode).Inv) ∧
  (∀ (bytes : List Byte) (s t : State), s.Inv → loadProgram bytes s = .ok t → t.Inv)

/-! ### What instructions may change, over all instructions -/

/-- The flag table of 10_state.md section 3: an instruction leaves every flag unchanged that the table does not say it
writes. -/
def Obligations.FlagsWrittenOnlyAsTabled : Prop :=
  ∀ (i : Instr) (s : State), ∃ t, exec i s = .next t ∧
    ∀ f, f ∉ i.mnemonic.flagsWritten → t.flag f = s.flag f

/-- "No instruction sets P.C, P.D or P.I to 1 directly" (10_state.md section 3): I and D become 1 only by PLP or RTI;
B and U are plain storage that only PLP and RTI write (decision D15). -/
def Obligations.StorageFlagsSetOnlyByPull : Prop :=
  ∀ (i : Instr) (s : State), i ≠ .plp → i ≠ .rti → ∃ t, exec i s = .next t ∧
    (t.flag .i = true → s.flag .i = true) ∧ (t.flag .d = true → s.flag .d = true) ∧
    t.flag .b = s.flag .b ∧ t.flag .u = s.flag .u

/-- The register table of 10_state.md section 1 with SP (section 4): an instruction leaves A, X, Y and SP unchanged
but for the registers the table says it writes. -/
def Obligations.RegistersWrittenOnlyAsTabled : Prop :=
  ∀ (i : Instr) (s : State), ∃ t, exec i s = .next t ∧
    ∀ r, r ∉ i.regsWritten → t.reg r = s.reg r

/-- Only the stack instructions move SP, each by its number of pushes or pops, modulo 256 (10_state.md section 4,
decisions D5 and D6). -/
def Obligations.StackPointerMovesByStackEffect : Prop :=
  ∀ (i : Instr) (s : State), ∃ t, exec i s = .next t ∧
    t.sp.toNat = (s.sp.toNat + i.mnemonic.stackEffect.toNat) % 256

/-- The memory frame of every instruction (the table of 20_memory.md section 1): outside the addresses it stores to,
computed as its meaning computes them, every address reads as before. -/
def Obligations.MemoryWrittenOnlyAsTabled : Prop :=
  ∀ (i : Instr) (s : State), ∃ t, exec i s = .next t ∧
    ∀ a, a ∉ i.storesTo s → t.read a = s.read a

/-- I, D, B and U have no effect on any instruction but PHP, which pushes them (10_state.md section 3, decisions D13,
D14, D15): two states that differ in those bits of P only are taken to two states that differ in P only, and there not
in C, Z, V or N. -/
def Obligations.StorageFlagsHaveNoEffect : Prop :=
  ∀ (i : Instr) (s : State) (q : Byte), i ≠ .php →
    (∀ f ∈ [Flag.c, .z, .v, .n], getFlag f q = s.flag f) →
    ∃ t q', exec i s = .next t ∧ exec i (s.setP q) = .next (t.setP q') ∧
      ∀ f ∈ [Flag.c, .z, .v, .n], getFlag f q' = t.flag f

/-! ### Arithmetic and logic -/

/-- ADC (41_adc_logic.md; the carry law and the binary sum are decisions D12 and D13): A takes the 8-bit sum of A, the
operand and the incoming Carry; Carry says the unsigned sum exceeded 255, Overflow that the signed sum left -128 to
127, and Zero and Negative are those of the result. -/
def Obligations.AdcAddsWithCarry : Prop :=
  ∀ (o : Operand) (s : State), (Instr.adc o).wellFormed = true →
    ∃ m t, memoryOperand o s.inHandler = some m ∧ exec (.adc o) s = .next t ∧
      t.a.toNat = (s.a.toNat + m.toNat + (s.flag .c).toNat) % 256 ∧
      (t.flag .c = true ↔ 255 < s.a.toNat + m.toNat + (s.flag .c).toNat) ∧
      (t.flag .v = true ↔ s.a.toInt + m.toInt + (s.flag .c).toNat < -128 ∨
        127 < s.a.toInt + m.toInt + (s.flag .c).toNat) ∧
      ZeroNegativeOf t.a t ∧ t.pc = s.pc + BitVec.ofNat 16 o.length ∧
      Frame [.a] [.c, .v, .z, .n] [] s t

/-- AND, ORA, EOR (R111, R112, R113): in each of the eight encodings, bitwise of A and the operand into A; Zero and
Negative of the result; nothing else. -/
def Obligations.LogicCombinesAWithOperand : Prop :=
  ∀ (ins : Operand → Instr) (op : Byte → Byte → Byte) (codes : List (Mode × Byte)),
    (ins, op, codes) ∈
      [(Instr.and, (· &&& ·), Mode.eight.zip [0x29, 0x25, 0x35, 0x2D, 0x3D, 0x39, 0x21, 0x31]),
       (.ora, (· ||| ·), Mode.eight.zip [0x09, 0x05, 0x15, 0x0D, 0x1D, 0x19, 0x01, 0x11]),
       (.eor, (· ^^^ ·), Mode.eight.zip [0x49, 0x45, 0x55, 0x4D, 0x5D, 0x59, 0x41, 0x51])] →
    ∀ (o : Operand) (opc : Byte) (s : State), (o.mode, opc) ∈ codes →
      encode (ins o) = some (opc :: o.bytes) ∧
      ∃ m t, memoryOperand o s.inHandler = some m ∧ exec (ins o) s = .next t ∧
        t.a = op s.a m ∧ ZeroNegativeOf t.a t ∧ t.pc = s.pc + BitVec.ofNat 16 o.length ∧
        Frame [.a] [.z, .n] [] s t

/-- ASL, LSR, ROL, ROR in Implied mode: the shift of A goes to A; Carry takes the bit shifted out, Zero and Negative
are those of the result (42_shift_rotate.md, operand selection by decision D23). -/
def Obligations.ShiftOfAccumulator : Prop :=
  ∀ (ins : Operand → Instr) (s : State), ins ∈ [Instr.asl, .lsr, .rol, .ror] →
    ∃ t, exec (ins .implied) s = .next t ∧
      ShiftsTo ins s.a.toNat (s.flag .c).toNat t.a.toNat (t.flag .c).toNat ∧
      ZeroNegativeOf t.a t ∧ t.pc = s.pc + 1 ∧ Frame [.a] [.c, .z, .n] [] s t

/-- ASL, LSR, ROL, ROR on memory: the shift of the byte at the effective address is written back to that address, and
to no other; A is untouched (42_shift_rotate.md, write-back by decision D23). -/
def Obligations.ShiftOfMemory : Prop :=
  ∀ (ins : Operand → Instr) (o : Operand) (s : State), ins ∈ [Instr.asl, .lsr, .rol, .ror] →
    (ins o).wellFormed = true → o ≠ .implied →
    ∃ a t, effectiveAddress o s.inHandler = some a ∧ exec (ins o) s = .next t ∧
      ShiftsTo ins (s.read a).toNat (s.flag .c).toNat (t.read a).toNat (t.flag .c).toNat ∧
      ZeroNegativeOf (t.read a) t ∧ t.pc = s.pc + BitVec.ofNat 16 o.length ∧
      Frame [] [.c, .z, .n] [a] s t

/-! ### Branches -/

/-- The eight branches: with the tested flag at its value and a displacement that is not zero, PC becomes the address
after the branch plus the displacement read as a signed byte, modulo 65536; otherwise it becomes the address after the
branch; nothing else changes (43_branches.md, decisions D7, D8 and D9). -/
def Obligations.BranchGoesToTarget : Prop :=
  ∀ (ins : Byte → Instr) (f : Flag) (v : Bool),
    (ins, f, v) ∈ [(Instr.bcc, .c, false), (.bcs, .c, true), (.beq, .z, true), (.bmi, .n, true),
      (.bne, .z, false), (.bpl, .n, false), (.bvc, .v, false), (.bvs, .v, true)] →
    ∀ (d : Byte) (s : State), ∃ t, exec (ins d) s = .next t ∧
      (t.pc.toNat : Int) =
        (if s.flag f = v ∧ d ≠ 0 then s.pc.toNat + 2 + d.toInt else s.pc.toNat + 2) % 65536 ∧
      t.p = s.p ∧ t.mem = s.mem ∧ Frame [] [] [] s t

/-! ### Test and compare -/

/-- BIT (R140): in its two encodings, Zero from `A & m`, Negative and Overflow copied from bits 7 and 6 of the operand;
A and memory unmodified. -/
def Obligations.BitTestsOperand : Prop :=
  ∀ (o : Operand) (opc : Byte) (s : State),
    (o.mode, opc) ∈ [(Mode.zeroPage, (0x24 : Byte)), (.absolute, 0x2C)] →
    encode (.bit o) = some (opc :: o.bytes) ∧
    ∃ m t, memoryOperand o s.inHandler = some m ∧ exec (.bit o) s = .next t ∧
      (t.flag .z = true ↔ s.a &&& m = 0) ∧ t.flag .n = m.getLsbD 7 ∧ t.flag .v = m.getLsbD 6 ∧
      t.pc = s.pc + BitVec.ofNat 16 o.length ∧ Frame [] [.z, .v, .n] [] s t

/-- CMP, CPX, CPY (R141, R142, R143): in each of their encodings, Carry says the register is at least the operand, unsigned; Zero that they are
equal; Negative is bit 7 of their difference modulo 256; the registers and memory are not written. -/
def Obligations.CompareSetsFlags : Prop :=
  ∀ (ins : Operand → Instr) (r : Reg) (codes : List (Mode × Byte)),
    (ins, r, codes) ∈
      [(Instr.cmp, Reg.a, Mode.eight.zip [0xC9, 0xC5, 0xD5, 0xCD, 0xDD, 0xD9, 0xC1, 0xD1]),
       (.cpx, .x, [(.immediate, 0xE0), (.zeroPage, 0xE4), (.absolute, 0xEC)]),
       (.cpy, .y, [(.immediate, 0xC0), (.zeroPage, 0xC4), (.absolute, 0xCC)])] →
    ∀ (o : Operand) (opc : Byte) (s : State), (o.mode, opc) ∈ codes →
      encode (ins o) = some (opc :: o.bytes) ∧
      ∃ m t, memoryOperand o s.inHandler = some m ∧ exec (ins o) s = .next t ∧
        (t.flag .c = true ↔ m.toNat ≤ (s.reg r).toNat) ∧ (t.flag .z = true ↔ s.reg r = m) ∧
        (t.flag .n = true ↔ 128 ≤ ((s.reg r).toNat + 256 - m.toNat) % 256) ∧
        t.pc = s.pc + BitVec.ofNat 16 o.length ∧ Frame [] [.c, .z, .n] [] s t

/-! ### Increment, decrement, load, transfer -/

/-- DEC and INC: the byte at the effective address minus or plus one, modulo 256, is written back to that address and
to no other; Zero and Negative of it; no Carry (45_incdec_load_transfer.md section 1, write-back by decision D23). -/
def Obligations.IncDecOfMemory : Prop :=
  ∀ (ins : Operand → Instr) (k : Nat), (ins, k) ∈ [(Instr.inc, 1), (.dec, 255)] →
    ∀ (o : Operand) (s : State), (ins o).wellFormed = true →
      ∃ a t, effectiveAddress o s.inHandler = some a ∧ exec (ins o) s = .next t ∧
        (t.read a).toNat = ((s.read a).toNat + k) % 256 ∧ ZeroNegativeOf (t.read a) t ∧
        t.pc = s.pc + BitVec.ofNat 16 o.length ∧ Frame [] [.z, .n] [a] s t

/-- DEX, DEY, INX, INY (R152 to R155): the register minus or plus one, modulo 256; Zero and Negative of it; one byte,
the rule's. -/
def Obligations.IncDecOfIndex : Prop :=
  ∀ (i : Instr) (opc : Byte) (r : Reg) (k : Nat),
    (i, opc, r, k) ∈ [(Instr.dex, (0xCA : Byte), Reg.x, 255), (.dey, 0x88, .y, 255), (.inx, 0xE8, .x, 1),
      (.iny, 0xC8, .y, 1)] →
    encode i = some [opc] ∧ ∀ s : State, ∃ t, exec i s = .next t ∧ (t.reg r).toNat = ((s.reg r).toNat + k) % 256 ∧
      ZeroNegativeOf (t.reg r) t ∧ t.pc = s.pc + 1 ∧ Frame [r] [.z, .n] [] s t

/-- LDA, LDX, LDY (R156, R157, R158): in each of their encodings, the register takes the operand; Zero and Negative of it. -/
def Obligations.LoadTakesOperand : Prop :=
  ∀ (ins : Operand → Instr) (r : Reg) (codes : List (Mode × Byte)),
    (ins, r, codes) ∈
      [(Instr.lda, Reg.a, Mode.eight.zip [0xA9, 0xA5, 0xB5, 0xAD, 0xBD, 0xB9, 0xA1, 0xB1]),
       (.ldx, .x, [(.immediate, 0xA2), (.zeroPage, 0xA6), (.zeroPageY, 0xB6), (.absolute, 0xAE), (.absoluteY, 0xBE)]),
       (.ldy, .y, [(.immediate, 0xA0), (.zeroPage, 0xA4), (.zeroPageX, 0xB4), (.absolute, 0xAC), (.absoluteX, 0xBC)])] →
    ∀ (o : Operand) (opc : Byte) (s : State), (o.mode, opc) ∈ codes →
      encode (ins o) = some (opc :: o.bytes) ∧
      ∃ m t, memoryOperand o s.inHandler = some m ∧ exec (ins o) s = .next t ∧ t.reg r = m ∧
        ZeroNegativeOf m t ∧ t.pc = s.pc + BitVec.ofNat 16 o.length ∧ Frame [r] [.z, .n] [] s t

/-- TAX, TAY (R159, R160): the register takes A, which is unchanged; Zero and Negative from it; one byte, the
rule's. -/
def Obligations.TransferCopiesA : Prop :=
  ∀ (i : Instr) (opc : Byte) (r : Reg), (i, opc, r) ∈ [(Instr.tax, (0xAA : Byte), Reg.x), (.tay, 0xA8, .y)] →
    encode i = some [opc] ∧ ∀ s : State, ∃ t, exec i s = .next t ∧ t.reg r = s.a ∧ ZeroNegativeOf s.a t ∧ t.pc = s.pc + 1 ∧
      Frame [r] [.z, .n] [] s t

/-! ### Jumps and the stack -/

/-- JMP (R170): PC takes the operand word in Absolute mode and the word stored at it in Indirect mode, and nothing
else changes. -/
def Obligations.JmpSetsPc : Prop :=
  ∀ (w : Addr) (s : State), exec (.jmp (.absolute w)) s = .next { s with pc := w } ∧
    exec (.jmp (.indirect w)) s = .next { s with pc := s.readWord w }

/-- JSR: the address of its last byte, `pc0 + 2` modulo 65536, is pushed high byte first; PC takes the target; SP falls
by two (46_jump_subroutine.md, decisions D5 and D9). -/
def Obligations.JsrPushesReturnMinusOne : Prop :=
  ∀ (w : Addr) (s : State), ∃ t, exec (.jsr w) s = .next t ∧ t.pc = w ∧ t.sp = s.sp - 2 ∧
    (t.read (stackAddr s.sp)).toNat = (s.pc.toNat + 2) % 65536 / 256 ∧
    (t.read (stackAddr (s.sp - 1))).toNat = (s.pc.toNat + 2) % 256 ∧
    Frame [.sp] [] [stackAddr s.sp, stackAddr (s.sp - 1)] s t

/-- PHA pushes A and PHP all eight bits of P as they stand; SP falls by one (47_stack_rti.md, decisions D5 and D15). -/
def Obligations.PushStoresByte : Prop :=
  ∀ (i : Instr) (s : State) (v : Byte), (i, v) ∈ [(Instr.pha, s.a), (.php, s.p)] →
    ∃ t, exec i s = .next t ∧ t.read (stackAddr s.sp) = v ∧ t.sp = s.sp - 1 ∧ t.pc = s.pc + 1 ∧
      Frame [.sp] [] [stackAddr s.sp] s t

/-- PLA: SP rises by one, A takes the byte it then points at, which is zeroed; Zero and Negative of A
(47_stack_rti.md, decision D5). -/
def Obligations.PlaPullsAccumulator : Prop :=
  ∀ s : State, ∃ t, exec .pla s = .next t ∧ t.a = s.read (stackAddr (s.sp + 1)) ∧ ZeroNegativeOf t.a t ∧
    t.sp = s.sp + 1 ∧ t.read (stackAddr (s.sp + 1)) = 0 ∧ t.pc = s.pc + 1 ∧
    Frame [.a, .sp] [.z, .n] [stackAddr (s.sp + 1)] s t

/-- PLP: the same into P, all eight bits raw, nothing recomputed (47_stack_rti.md, decisions D5 and D15). -/
def Obligations.PlpPullsStatus : Prop :=
  ∀ s : State, ∃ t, exec .plp s = .next t ∧ t.p = s.read (stackAddr (s.sp + 1)) ∧ t.sp = s.sp + 1 ∧
    t.read (stackAddr (s.sp + 1)) = 0 ∧ t.pc = s.pc + 1 ∧
    Frame [.sp] [.c, .z, .i, .d, .b, .u, .v, .n] [stackAddr (s.sp + 1)] s t

/-- RTI: P, then the low byte of PC, then its high byte come from the three slots above SP, with no adjustment; the
three slots are zeroed and SP rises by three (47_stack_rti.md, decisions D5 and D6). -/
def Obligations.RtiRestoresStatusAndPc : Prop :=
  ∀ s : State, ∃ t, exec .rti s = .next t ∧ t.p = s.read (stackAddr (s.sp + 1)) ∧
    t.pc.toNat = (s.read (stackAddr (s.sp + 3))).toNat * 256 + (s.read (stackAddr (s.sp + 2))).toNat ∧
    t.sp = s.sp + 3 ∧
    (∀ a ∈ [stackAddr (s.sp + 1), stackAddr (s.sp + 2), stackAddr (s.sp + 3)], t.read a = 0) ∧
    Frame [.sp] [.c, .z, .i, .d, .b, .u, .v, .n]
      [stackAddr (s.sp + 1), stackAddr (s.sp + 2), stackAddr (s.sp + 3)] s t

/-- PHA then PLA restores A and SP, and PHP then PLP restores P bit for bit and SP; in both the vacated byte reads
0x00 and no other byte of memory changes (the properties E3 and E4 of the source; decision D5 for the slot). -/
def Obligations.PushThenPullRestores : Prop :=
  ∀ s : State,
    (∃ t u, exec .pha s = .next t ∧ exec .pla t = .next u ∧ u.a = s.a ∧ u.sp = s.sp ∧
      u.read (stackAddr s.sp) = 0 ∧ ∀ a, a ≠ stackAddr s.sp → u.read a = s.read a) ∧
    (∃ t u, exec .php s = .next t ∧ exec .plp t = .next u ∧ u.p = s.p ∧ u.sp = s.sp ∧
      u.read (stackAddr s.sp) = 0 ∧ ∀ a, a ≠ stackAddr s.sp → u.read a = s.read a)

/-- What RTI pops is what JSR and PHP push: in a subroutine entered by JSR, PHP then RTI goes to the address JSR
pushed, `pc0 + 2`, with P and SP as they were (70_reset_and_hazards.md section 4, decisions D5 and D6). -/
def Obligations.RtiUndoesJsrAndPhp : Prop :=
  ∀ (w : Addr) (s : State), ∃ t u v, exec (.jsr w) s = .next t ∧ exec .php t = .next u ∧
    exec .rti u = .next v ∧ v.pc = s.pc + 2 ∧ v.p = s.p ∧ v.sp = s.sp

/-! ### Flags, NOP, BRK -/

/-- CLC, CLD, CLI, CLV (R190 to R193): clear one flag; everything else unchanged, PC one further; one byte, the
rule's. -/
def Obligations.ClearClearsOneFlag : Prop :=
  ∀ (i : Instr) (opc : Byte) (f : Flag),
    (i, opc, f) ∈ [(Instr.clc, (0x18 : Byte), Flag.c), (.cld, 0xD8, .d), (.cli, 0x58, .i), (.clv, 0xB8, .v)] →
    encode i = some [opc] ∧ ∀ s : State, ∃ t, exec i s = .next t ∧ t.flag f = false ∧ t.pc = s.pc + 1 ∧ t.mem = s.mem ∧
      Frame [] [f] [] s t

/-- NOP (R194): no state change beyond PC; only the byte 0xEA is a NOP. -/
def Obligations.NopAdvancesPc : Prop :=
  (∀ s : State, exec .nop s = .next { s with pc := s.pc + 1 }) ∧
  ∀ opc b1 b2 : Byte, decodeBytes opc b1 b2 = .ok .nop ↔ opc = 0xEA

/-- BRK halts the core with PC past the opcode and changes nothing else: no push, no vector, no flag
(48_flags_nop_brk.md, decision D16). -/
def Obligations.BrkHalts : Prop :=
  ∀ s : State, exec .brk s = .next { s with pc := s.pc + 1, run := .halted }

/-! ### Operands, flags and the shared primitives -/

/-- R86, R88 to R91: the effective address of a fetched instruction in the modes without a 16-bit sum or a pointer, by
the bytes in memory after its opcode. -/
def Obligations.DirectAddresses : Prop :=
  ∀ (s : State) (i : Instr), fetchDecode s = .ok i → ∀ b : Byte, b = s.read (s.pc + 1) →
    ∀ a : Addr, effectiveAddress i.operand s.inHandler = some a →
      (i.operand.mode = .immediate → a = s.pc + 1 ∧ memoryOperand i.operand s.inHandler = some b) ∧
      (i.operand.mode = .zeroPage → a.toNat = b.toNat) ∧
      (i.operand.mode = .zeroPageX → a.toNat = (b.toNat + s.x.toNat) % 256) ∧
      (i.operand.mode = .zeroPageY → a.toNat = (b.toNat + s.y.toNat) % 256) ∧
      (i.operand.mode = .absolute → a = s.readWord (s.pc + 1))

/-- The effective address of a fetched instruction in the modes with a 16-bit sum or a pointer: the sums wrap modulo
65536 (decision D11), and a pointer's high byte comes from the next address in 16 bits, at a page end too (decision
D10). `w` is the operand word, `b` the operand byte, `lo` and `hi` the addresses of a zero-page pointer's bytes. -/
def Obligations.IndexedAndIndirectAddresses : Prop :=
  ∀ (s : State) (i : Instr), fetchDecode s = .ok i →
    ∀ (b : Byte) (w : Addr), b = s.read (s.pc + 1) → w = s.readWord (s.pc + 1) →
    ∀ a : Addr, effectiveAddress i.operand s.inHandler = some a →
      (i.operand.mode = .absoluteX → a.toNat = (w.toNat + s.x.toNat) % 65536) ∧
      (i.operand.mode = .absoluteY → a.toNat = (w.toNat + s.y.toNat) % 65536) ∧
      (i.operand.mode = .indirect → a.toNat = (s.read (w + 1)).toNat * 256 + (s.read w).toNat) ∧
      (i.operand.mode = .indirectX → ∃ lo hi : Addr,
        lo.toNat = (b.toNat + s.x.toNat) % 256 ∧ hi.toNat = (b.toNat + s.x.toNat) % 256 + 1 ∧
        a.toNat = (s.read hi).toNat * 256 + (s.read lo).toNat) ∧
      (i.operand.mode = .indirectY → ∃ lo hi : Addr, lo.toNat = b.toNat ∧ hi.toNat = b.toNat + 1 ∧
        a.toNat = ((s.read hi).toNat * 256 + (s.read lo).toNat + s.y.toNat) % 65536)

/-- For an instruction fetched from memory, the memory operand is the byte at the effective address in every mode that
has one, and Implied alone has none (40_step_and_addressing.md section 2). -/
def Obligations.OperandIsByteAtEffectiveAddress : Prop :=
  ∀ (s : State) (i : Instr), fetchDecode s = .ok i →
    memoryOperand i.operand s.inHandler = (effectiveAddress i.operand s.inHandler).map s.read ∧
    ((effectiveAddress i.operand s.inHandler).isSome = true ↔ i.operand.mode ≠ .implied)

/-- R44 and R45: word reads and writes are little-endian, the second byte at the next address modulo 65536. -/
def Obligations.WordAccessIsLittleEndian : Prop :=
  ∀ (s : State) (a w : Addr) (b : Addr), b.toNat = (a.toNat + 1) % 65536 →
    (s.readWord a).toNat = (s.read b).toNat * 256 + (s.read a).toNat ∧
    ((s.writeWord a w).read a).toNat = w.toNat % 256 ∧ ((s.writeWord a w).read b).toNat = w.toNat / 256 ∧
    (∀ c, c ≠ a → c ≠ b → (s.writeWord a w).read c = s.read c) ∧ (s.writeWord a w).readWord a = w

/-- R100: `SetZN` writes Zero and Negative from the value and no other flag. -/
def Obligations.SetZnWritesTwoFlags : Prop :=
  ∀ v p : Byte, (getFlag .z (setZN v p) = true ↔ v.toNat = 0) ∧ getFlag .n (setZN v p) = v.getLsbD 7 ∧
    ∀ f, f ≠ .z → f ≠ .n → getFlag f (setZN v p) = getFlag f p

/-- R14: the layout of P, and its bits at power-on. -/
def Obligations.StatusByteLayout : Prop :=
  (∀ s : State, s.p.toNat =
    (s.flag .n).toNat * 128 + (s.flag .v).toNat * 64 + (s.flag .u).toNat * 32 + (s.flag .b).toNat * 16 +
    (s.flag .d).toNat * 8 + (s.flag .i).toNat * 4 + (s.flag .z).toNat * 2 + (s.flag .c).toNat) ∧
  ∀ (m : Memory) (f : Flag), (State.powerOn m).flag f = decide (f = .b ∨ f = .u)

/-! ### Power-on, reset, loader -/

/-- After `power_on` (10_state.md section 8; `run` and `fault` by decision D17, the memory by D19); and `State.reset`,
the model's choice of a state after reset (log 2), is the power-on state of an empty memory after `reset(false)`. -/
def Obligations.PowerOnState : Prop :=
  (∀ m : Memory, let s := State.powerOn m
    s.a = 0x00 ∧ s.x = 0x00 ∧ s.y = 0x00 ∧ s.p = 0x30 ∧ s.sp = 0xFF ∧ s.pc = 0x0000 ∧ s.run = .running ∧
      s.fault = none ∧ ∀ a, s.read a = m.read a.toNat) ∧
  State.reset = (State.powerOn []).resetEvent false

/-- The reset event (10_state.md section 8, decisions D15 and D18): PC from the word at 0xFFFC; A, X, Y and P zeroed if
the input says so and unchanged if not; SP, the memory and `fault` unchanged; HALTED to RUNNING, FAULTED stays. -/
def Obligations.ResetEventEffect : Prop :=
  ∀ (mode : Bool) (s : State), let t := s.resetEvent mode
    (∀ r ∈ [Reg.a, .x, .y], t.reg r = if mode then 0 else s.reg r) ∧ (t.p = if mode then 0 else s.p) ∧
    t.sp = s.sp ∧ t.mem = s.mem ∧ t.fault = s.fault ∧
    t.pc.toNat = (s.read 0xFFFD).toNat * 256 + (s.read 0xFFFC).toNat ∧
    t.run = (if s.run = .faulted then .faulted else .running)

/-- FAULTED and its record outlive any reset, and the core still takes no step; a HALTED core steps again after a
reset, from the vector (decisions D17 and D18). -/
def Obligations.FaultedSurvivesReset : Prop :=
  ∀ (mode : Bool) (s : State),
    (s.run = .faulted → (s.resetEvent mode).run = .faulted ∧ (s.resetEvent mode).fault = s.fault ∧
      step (s.resetEvent mode) = .next (s.resetEvent mode)) ∧
    (s.run = .halted → (s.resetEvent mode).run = .running ∧ step s = .next s)

/-- The loader (70_reset_and_hazards.md section 3, decision D22): an image that fits is copied to 0x8000, and then the
vector is written over it; nothing else changes. -/
def Obligations.LoaderPlacesImage : Prop :=
  ∀ (bytes : List Byte) (s : State), bytes.length ≤ 0x8000 →
    ∃ t, loadProgram bytes s = .ok t ∧ t = { s with mem := t.mem } ∧
      t.read 0xFFFC = 0x00 ∧ t.read 0xFFFD = 0x80 ∧
      ∀ a : Addr, a ≠ 0xFFFC → a ≠ 0xFFFD →
        t.read a = (if 0x8000 ≤ a.toNat then bytes[a.toNat - 0x8000]? else none).getD (s.read a)

/-- The loader refuses a longer image (decision D22). -/
def Obligations.LoaderRefusesLongImage : Prop :=
  ∀ (bytes : List Byte) (s : State), 0x8000 < bytes.length → loadProgram bytes s = .error .outOfRange

/-- The boot sequence of an image that fits ends running at 0x8000, SP at its power-on value and the registers zero;
P is 0x00 or 0x30 by the reset's input (70_reset_and_hazards.md section 3, decisions D15, D18 and D22). -/
def Obligations.BootStartsAtOrigin : Prop :=
  ∀ (m : Memory) (bytes : List Byte) (mode : Bool), bytes.length ≤ 0x8000 →
    ∃ t, boot m bytes mode = .ok t ∧ t.run = .running ∧ t.fault = none ∧ t.pc = 0x8000 ∧ t.sp = 0xFF ∧
      t.a = 0 ∧ t.x = 0 ∧ t.y = 0 ∧ t.p = if mode then 0x00 else 0x30

/-! ### Any Operation Table -/

/-- The step through any table is the step of the model when the table is the spec's (R5, R80; decision D1). -/
def Obligations.StepWithSpecTableIsStep : Prop :=
  ∀ s : State, stepWith optable s = step s

/-- Through any table a step of a running core does what the model reads from 40_step_and_addressing.md section 1 and
60_exceptions.md sections 1 and 3 for every pairing (DEDUCED, log 17): no entry raises UnknownOpcode; one of the twelve
raises NotImplemented in any mode; Implied raises AddressingModeMisuse exactly for the mnemonics whose handler evaluates
an effective address in every mode; every other pairing runs, and unless its instruction sets PC, PC ends at `pc0 + len`
of the descriptor. -/
def Obligations.AnyTableFollowsTheStep : Prop :=
  ∀ (table : Byte → Option Descriptor) (s : State), s.run = .running →
    match table (s.read s.pc) with
    | none => stepWith table s = .next { s with run := .faulted, fault := some ⟨.unknownOpcode, s.read s.pc, s.pc⟩ }
    | some d =>
      if d.mnemonic.unimplemented then
        stepWith table s = .next { s with run := .faulted, fault := some ⟨.notImplemented, s.read s.pc, s.pc⟩ }
      else if d.mode = .implied ∧ d.mnemonic ∈ [Mnemonic.adc, .and, .ora, .eor, .bit, .cmp, .cpx, .cpy, .dec, .inc,
          .lda, .ldx, .ldy, .jmp] then
        stepWith table s = .next { s with run := .faulted, fault := some ⟨.addressingModeMisuse, s.read s.pc, s.pc⟩ }
      else ∃ t, stepWith table s = .next t ∧ t.run = (if d.mnemonic = .brk then .halted else .running) ∧
        t.fault = s.fault ∧
        ((d.instr (s.read (s.pc + 1)) (s.read (s.pc + 2))).setsPC s = false → t.pc = s.pc + BitVec.ofNat 16 d.length)
end

