-- ==== Sys2Proof/Laws/Decode.lean ====
section
/-! SUPPORT. The decoder and the encoder: taking an instruction apart and putting it together, and what each of the two
opcode tables holds. -/

namespace Sys2Proof

/-- The instruction of a mnemonic has that mnemonic. -/
@[simp] theorem Mnemonic.instr_mnemonic (mn : Mnemonic) (o : Operand) (b1 b2 : Byte) :
    (mn.instr o b1 b2).mnemonic = mn := by
  cases mn <;> rfl

/-- At a pair of WellFormed.lean it has the operand it was given. -/
theorem Mnemonic.instr_operand (mn : Mnemonic) (m : Mode) (b1 b2 : Byte) (h : mn.modes.contains m = true) :
    (mn.instr (m.assemble b1 b2) b1 b2).operand = m.assemble b1 b2 := by
  revert h
  cases mn <;> cases m <;> first | (intro _; rfl) | (intro h; exact absurd h (by decide))

/-- An instruction is made of its mnemonic and its operand. -/
theorem Instr.instr_self (i : Instr) (b1 b2 : Byte) (h : i.operand.mode.assemble b1 b2 = i.operand) :
    i.mnemonic.instr i.operand b1 b2 = i := by
  cases i <;> simp_all [Mnemonic.instr, Instr.mnemonic, Instr.operand, Operand.mode, Mode.assemble]

/-- The operand a mode assembles has that mode. -/
@[simp] theorem Mode.assemble_mode (m : Mode) (b1 b2 : Byte) : (m.assemble b1 b2).mode = m := by
  cases m <;> rfl

theorem concat_toNat (hi lo : Byte) : (concat hi lo).toNat = hi.toNat * 256 + lo.toNat := by
  have := lo.isLt
  rw [concat, BitVec.toNat_append, Nat.shiftLeft_eq, Nat.mul_comm, ← Nat.two_pow_add_eq_or_of_lt (by omega)]

theorem lowByte_toNat (w : Addr) : (lowByte w).toNat = w.toNat % 256 := by
  simp [lowByte]

theorem highByte_toNat (w : Addr) : (highByte w).toNat = w.toNat / 256 := by
  have := w.isLt
  simp [highByte, Nat.shiftRight_eq_div_pow]
  omega

/-- A word is its two bytes (R46). -/
@[simp] theorem concat_high_low (w : Addr) : concat (highByte w) (lowByte w) = w := by
  apply BitVec.eq_of_toNat_eq
  rw [concat_toNat, highByte_toNat, lowByte_toNat]
  omega

@[simp] theorem lowByte_concat (hi lo : Byte) : lowByte (concat hi lo) = lo := by
  have := lo.isLt
  apply BitVec.eq_of_toNat_eq
  rw [lowByte_toNat, concat_toNat]
  omega

@[simp] theorem highByte_concat (hi lo : Byte) : highByte (concat hi lo) = hi := by
  have := lo.isLt
  apply BitVec.eq_of_toNat_eq
  rw [highByte_toNat, concat_toNat]
  omega

/-- Assembling the bytes of an operand gives the operand back, whatever bytes follow. -/
theorem Mode.assemble_bytes (o : Operand) (rest : List Byte) :
    o.mode.assemble ((o.bytes ++ rest).getD 0 0) ((o.bytes ++ rest).getD 1 0) = o := by
  cases o <;> simp [Operand.mode, Mode.assemble, Operand.bytes]

/-- An operand has as many bytes as its instruction has after the opcode (R61). -/
theorem Operand.bytes_length (o : Operand) : o.bytes.length + 1 = o.length := by
  cases o <;> rfl

/-- What decoding through a table can answer. -/
theorem decodeWith_ok {table : Byte → Option Descriptor} {opc b1 b2 : Byte} {i : Instr}
    (h : decodeWith table opc b1 b2 = .ok i) : ∃ d, table opc = some d ∧ i = d.instr b1 b2 := by
  unfold decodeWith at h
  split at h
  · cases h
  · rename_i d hd
    cases h
    exact ⟨d, hd, rfl⟩

/-- The two transcriptions of R64 agree on which pairs there are: a pair of WellFormed.lean has an opcode byte. -/
theorem Mnemonic.opcodeAt_isSome (mn : Mnemonic) (mode : Mode) (h : mn.modes.contains mode = true) :
    (mn.opcodeAt mode).isSome = true := by
  revert h
  cases mn <;> cases mode <;> decide

/-- Every entry of the matrix is a pair of WellFormed.lean, with the length of its mode, and the by-mnemonic table
gives its byte back. -/
theorem optable_entry : ∀ opc : Byte, ∀ d ∈ optable opc,
    d.mnemonic.modes.contains d.mode = true ∧ d.length = d.mode.length ∧ d.mnemonic.opcodeAt d.mode = some opc := by
  decide +kernel

/-- Every row of the by-mnemonic table is an entry of the matrix. -/
theorem opcodes_entry (mn : Mnemonic) : ∀ r ∈ mn.opcodes, optable r.2 = some ⟨mn, r.1, r.1.length⟩ := by
  cases mn <;> decide +kernel

/-- A byte the encoder chooses is decoded to the pair it was chosen for. -/
theorem opcodeAt_entry {mn : Mnemonic} {mode : Mode} {opc : Byte} (h : mn.opcodeAt mode = some opc) :
    optable opc = some ⟨mn, mode, mode.length⟩ := by
  obtain ⟨r, hr, rfl⟩ := Option.map_eq_some_iff.mp h
  have hm : r.1 = mode := by simpa using List.find?_some hr
  exact hm ▸ opcodes_entry mn r (List.mem_of_find?_eq_some hr)

/-- What decoding through the spec's table can answer: the mnemonic and the assembled operand of the byte's entry. -/
theorem decodeBytes_ok {opc b1 b2 : Byte} {i : Instr} (h : decodeBytes opc b1 b2 = .ok i) :
    ∃ d, optable opc = some d ∧ i = d.instr b1 b2 ∧ i.mnemonic = d.mnemonic ∧ i.operand = d.mode.assemble b1 b2 ∧
      i.wellFormed = true ∧ i.length = d.length := by
  obtain ⟨d, hd, rfl⟩ := decodeWith_ok h
  obtain ⟨hm, hl, -⟩ := optable_entry opc d hd
  have ho : (d.instr b1 b2).operand = d.mode.assemble b1 b2 := Mnemonic.instr_operand _ _ _ _ hm
  have hmn : (d.instr b1 b2).mnemonic = d.mnemonic := Mnemonic.instr_mnemonic _ _ _ _
  exact ⟨d, hd, rfl, hmn, ho, by rw [Instr.wellFormed, hmn, ho, Mode.assemble_mode, hm],
    by rw [hl, Instr.length, ho, Operand.length, Mode.assemble_mode]⟩

/-- Decoding fails only for a byte that is in no row. -/
theorem decodeBytes_error {opc b1 b2 : Byte} {e : DecodeError} (h : decodeBytes opc b1 b2 = .error e) :
    e = .unknownOpcode opc ∧ optable opc = none := by
  unfold decodeBytes decodeWith at h
  split at h
  · cases h; exact ⟨rfl, ‹_›⟩
  · cases h

/-- What decoding a byte string can answer. -/
theorem decode_ok {bytes rest : List Byte} {i : Instr} (h : decode bytes = .ok (i, rest)) :
    ∃ opc tl, bytes = opc :: tl ∧ decodeBytes opc (tl.getD 0 0) (tl.getD 1 0) = .ok i ∧
      i.length ≤ tl.length + 1 ∧ rest = tl.drop (i.length - 1) := by
  cases bytes with
  | nil => simp [decode] at h
  | cons opc tl =>
    refine ⟨opc, tl, rfl, ?_⟩
    cases hj : decodeBytes opc (tl.getD 0 0) (tl.getD 1 0) with
    | error e => simp only [decode, hj, reduceCtorEq] at h
    | ok j =>
      by_cases hlen : tl.length + 1 < j.length
      · simp only [decode, hj, hlen, if_true, reduceCtorEq] at h
      · simp only [decode, hj, hlen, if_false, Except.ok.injEq, Prod.mk.injEq] at h
        obtain ⟨rfl, rfl⟩ := h
        exact ⟨rfl, by omega, rfl⟩

end Sys2Proof
end

