-- ==== Sys2Proof/Laws/Flags.lean ====
section
/-! SUPPORT. What each flag of P is after each flag computation. -/

namespace Sys2Proof.Machine

/-- A flag after one flag is written. -/
@[simp] theorem getFlag_putFlag (f g : Flag) (v : Bool) (p : Byte) :
    getFlag f (putFlag g v p) = if f = g then v else getFlag f p := by
  cases v <;> cases f <;> cases g <;> simp [getFlag, putFlag, Flag.mask, Flag.index]

theorem getFlag_setZN (f : Flag) (v p : Byte) :
    getFlag f (setZN v p) = if f = .n then v.msb else if f = .z then decide (v = 0) else getFlag f p := by
  simp [setZN]

@[simp] theorem getFlag_setZN_z (v p : Byte) : getFlag .z (setZN v p) = decide (v = 0) := by
  simp [setZN]

@[simp] theorem getFlag_setZN_n (v p : Byte) : getFlag .n (setZN v p) = v.msb := by
  simp [setZN]

/-- `SetZN` writes no other flag. -/
theorem getFlag_setZN_of_ne (f : Flag) (v p : Byte) (hz : f ≠ .z) (hn : f ≠ .n) :
    getFlag f (setZN v p) = getFlag f p := by
  simp [setZN, hz, hn]

/-- Bit 7 as an unsigned comparison. -/
theorem msb_iff (v : Byte) : v.msb = true ↔ 128 ≤ v.toNat := by
  simp [BitVec.msb_eq_decide]

/-- The flags after ADC: those of R110, the others kept. -/
theorem getFlag_adcFlags (f : Flag) (a m p : Byte) :
    getFlag f (adcFlags a m p) =
      match f with
      | .n => (adcResult a m (getFlag .c p)).msb
      | .z => decide (adcResult a m (getFlag .c p) = 0)
      | .v => adcOverflow a m (getFlag .c p)
      | .c => adcCarry a m (getFlag .c p)
      | f => getFlag f p := by
  cases f <;> simp [adcFlags, setZN]

/-- The flags after a shift or rotate. -/
theorem getFlag_shiftFlags (f : Flag) (r : Byte × Bool) (p : Byte) :
    getFlag f (shiftFlags r p) =
      match f with
      | .n => r.1.msb
      | .z => decide (r.1 = 0)
      | .c => r.2
      | f => getFlag f p := by
  cases f <;> simp [shiftFlags, setZN]

/-- The flags after a compare. -/
theorem getFlag_compareFlags (f : Flag) (r m p : Byte) :
    getFlag f (compareFlags r m p) =
      match f with
      | .n => (r - m).msb
      | .z => decide (r - m = 0)
      | .c => decide (m.toNat ≤ r.toNat)
      | f => getFlag f p := by
  cases f <;> simp [compareFlags, setZN]

/-- The flags after BIT. -/
theorem getFlag_bitFlags (f : Flag) (a m p : Byte) :
    getFlag f (bitFlags a m p) =
      match f with
      | .v => m.getLsbD 6
      | .n => m.getLsbD 7
      | .z => decide (a &&& m = 0)
      | f => getFlag f p := by
  cases f <;> simp [bitFlags]

/-- Two P values with the same eight flags are equal. -/
theorem eq_of_getFlag (p q : Byte) (h : ∀ f, getFlag f p = getFlag f q) : p = q := by
  apply BitVec.eq_of_getLsbD_eq
  intro i hi
  have := h .c; have := h .z; have := h .i; have := h .d
  have := h .b; have := h .u; have := h .v; have := h .n
  simp only [getFlag, Flag.index] at *
  have hi' : i = 0 ∨ i = 1 ∨ i = 2 ∨ i = 3 ∨ i = 4 ∨ i = 5 ∨ i = 6 ∨ i = 7 := by omega
  rcases hi' with rfl | rfl | rfl | rfl | rfl | rfl | rfl | rfl <;> assumption

end Sys2Proof.Machine
end

