-- ==== Sys2Proof/Laws/State.lean ====
section
/-! SUPPORT. One lemma per field per update of State, all true by rfl, and the same for the reads built on the fields
(a memory read, a flag). Later proofs cite these instead of unfolding an update. -/

namespace Sys2Proof.Machine

@[simp] theorem State.setA_a (s : State) (v : Byte) : (s.setA v).a = v := rfl
@[simp] theorem State.setA_x (s : State) (v : Byte) : (s.setA v).x = s.x := rfl
@[simp] theorem State.setA_y (s : State) (v : Byte) : (s.setA v).y = s.y := rfl
@[simp] theorem State.setA_p (s : State) (v : Byte) : (s.setA v).p = s.p := rfl
@[simp] theorem State.setA_pc (s : State) (v : Byte) : (s.setA v).pc = s.pc := rfl
@[simp] theorem State.setA_sp (s : State) (v : Byte) : (s.setA v).sp = s.sp := rfl
@[simp] theorem State.setA_run (s : State) (v : Byte) : (s.setA v).run = s.run := rfl
@[simp] theorem State.setA_fault (s : State) (v : Byte) : (s.setA v).fault = s.fault := rfl
@[simp] theorem State.setA_mem (s : State) (v : Byte) : (s.setA v).mem = s.mem := rfl
@[simp] theorem State.setA_read (s : State) (v : Byte) (a : Addr) : (s.setA v).read a = s.read a := rfl
@[simp] theorem State.setA_readWord (s : State) (v : Byte) (a : Addr) : (s.setA v).readWord a = s.readWord a := rfl
@[simp] theorem State.setA_flag (s : State) (v : Byte) (f : Flag) : (s.setA v).flag f = s.flag f := rfl

@[simp] theorem State.setX_a (s : State) (v : Byte) : (s.setX v).a = s.a := rfl
@[simp] theorem State.setX_x (s : State) (v : Byte) : (s.setX v).x = v := rfl
@[simp] theorem State.setX_y (s : State) (v : Byte) : (s.setX v).y = s.y := rfl
@[simp] theorem State.setX_p (s : State) (v : Byte) : (s.setX v).p = s.p := rfl
@[simp] theorem State.setX_pc (s : State) (v : Byte) : (s.setX v).pc = s.pc := rfl
@[simp] theorem State.setX_sp (s : State) (v : Byte) : (s.setX v).sp = s.sp := rfl
@[simp] theorem State.setX_run (s : State) (v : Byte) : (s.setX v).run = s.run := rfl
@[simp] theorem State.setX_fault (s : State) (v : Byte) : (s.setX v).fault = s.fault := rfl
@[simp] theorem State.setX_mem (s : State) (v : Byte) : (s.setX v).mem = s.mem := rfl
@[simp] theorem State.setX_read (s : State) (v : Byte) (a : Addr) : (s.setX v).read a = s.read a := rfl
@[simp] theorem State.setX_readWord (s : State) (v : Byte) (a : Addr) : (s.setX v).readWord a = s.readWord a := rfl
@[simp] theorem State.setX_flag (s : State) (v : Byte) (f : Flag) : (s.setX v).flag f = s.flag f := rfl

@[simp] theorem State.setY_a (s : State) (v : Byte) : (s.setY v).a = s.a := rfl
@[simp] theorem State.setY_x (s : State) (v : Byte) : (s.setY v).x = s.x := rfl
@[simp] theorem State.setY_y (s : State) (v : Byte) : (s.setY v).y = v := rfl
@[simp] theorem State.setY_p (s : State) (v : Byte) : (s.setY v).p = s.p := rfl
@[simp] theorem State.setY_pc (s : State) (v : Byte) : (s.setY v).pc = s.pc := rfl
@[simp] theorem State.setY_sp (s : State) (v : Byte) : (s.setY v).sp = s.sp := rfl
@[simp] theorem State.setY_run (s : State) (v : Byte) : (s.setY v).run = s.run := rfl
@[simp] theorem State.setY_fault (s : State) (v : Byte) : (s.setY v).fault = s.fault := rfl
@[simp] theorem State.setY_mem (s : State) (v : Byte) : (s.setY v).mem = s.mem := rfl
@[simp] theorem State.setY_read (s : State) (v : Byte) (a : Addr) : (s.setY v).read a = s.read a := rfl
@[simp] theorem State.setY_readWord (s : State) (v : Byte) (a : Addr) : (s.setY v).readWord a = s.readWord a := rfl
@[simp] theorem State.setY_flag (s : State) (v : Byte) (f : Flag) : (s.setY v).flag f = s.flag f := rfl

@[simp] theorem State.setP_a (s : State) (v : Byte) : (s.setP v).a = s.a := rfl
@[simp] theorem State.setP_x (s : State) (v : Byte) : (s.setP v).x = s.x := rfl
@[simp] theorem State.setP_y (s : State) (v : Byte) : (s.setP v).y = s.y := rfl
@[simp] theorem State.setP_p (s : State) (v : Byte) : (s.setP v).p = v := rfl
@[simp] theorem State.setP_pc (s : State) (v : Byte) : (s.setP v).pc = s.pc := rfl
@[simp] theorem State.setP_sp (s : State) (v : Byte) : (s.setP v).sp = s.sp := rfl
@[simp] theorem State.setP_run (s : State) (v : Byte) : (s.setP v).run = s.run := rfl
@[simp] theorem State.setP_fault (s : State) (v : Byte) : (s.setP v).fault = s.fault := rfl
@[simp] theorem State.setP_mem (s : State) (v : Byte) : (s.setP v).mem = s.mem := rfl
@[simp] theorem State.setP_read (s : State) (v : Byte) (a : Addr) : (s.setP v).read a = s.read a := rfl
@[simp] theorem State.setP_readWord (s : State) (v : Byte) (a : Addr) : (s.setP v).readWord a = s.readWord a := rfl
@[simp] theorem State.setP_flag (s : State) (v : Byte) (f : Flag) : (s.setP v).flag f = getFlag f v := rfl

@[simp] theorem State.setSP_a (s : State) (v : Byte) : (s.setSP v).a = s.a := rfl
@[simp] theorem State.setSP_x (s : State) (v : Byte) : (s.setSP v).x = s.x := rfl
@[simp] theorem State.setSP_y (s : State) (v : Byte) : (s.setSP v).y = s.y := rfl
@[simp] theorem State.setSP_p (s : State) (v : Byte) : (s.setSP v).p = s.p := rfl
@[simp] theorem State.setSP_pc (s : State) (v : Byte) : (s.setSP v).pc = s.pc := rfl
@[simp] theorem State.setSP_sp (s : State) (v : Byte) : (s.setSP v).sp = v := rfl
@[simp] theorem State.setSP_run (s : State) (v : Byte) : (s.setSP v).run = s.run := rfl
@[simp] theorem State.setSP_fault (s : State) (v : Byte) : (s.setSP v).fault = s.fault := rfl
@[simp] theorem State.setSP_mem (s : State) (v : Byte) : (s.setSP v).mem = s.mem := rfl
@[simp] theorem State.setSP_read (s : State) (v : Byte) (a : Addr) : (s.setSP v).read a = s.read a := rfl
@[simp] theorem State.setSP_readWord (s : State) (v : Byte) (a : Addr) : (s.setSP v).readWord a = s.readWord a := rfl
@[simp] theorem State.setSP_flag (s : State) (v : Byte) (f : Flag) : (s.setSP v).flag f = s.flag f := rfl

@[simp] theorem State.setPC_a (s : State) (v : Addr) : (s.setPC v).a = s.a := rfl
@[simp] theorem State.setPC_x (s : State) (v : Addr) : (s.setPC v).x = s.x := rfl
@[simp] theorem State.setPC_y (s : State) (v : Addr) : (s.setPC v).y = s.y := rfl
@[simp] theorem State.setPC_p (s : State) (v : Addr) : (s.setPC v).p = s.p := rfl
@[simp] theorem State.setPC_pc (s : State) (v : Addr) : (s.setPC v).pc = v := rfl
@[simp] theorem State.setPC_sp (s : State) (v : Addr) : (s.setPC v).sp = s.sp := rfl
@[simp] theorem State.setPC_run (s : State) (v : Addr) : (s.setPC v).run = s.run := rfl
@[simp] theorem State.setPC_fault (s : State) (v : Addr) : (s.setPC v).fault = s.fault := rfl
@[simp] theorem State.setPC_mem (s : State) (v : Addr) : (s.setPC v).mem = s.mem := rfl
@[simp] theorem State.setPC_read (s : State) (v : Addr) (a : Addr) : (s.setPC v).read a = s.read a := rfl
@[simp] theorem State.setPC_readWord (s : State) (v : Addr) (a : Addr) : (s.setPC v).readWord a = s.readWord a := rfl
@[simp] theorem State.setPC_flag (s : State) (v : Addr) (f : Flag) : (s.setPC v).flag f = s.flag f := rfl

@[simp] theorem State.setRun_a (s : State) (v : RunState) : (s.setRun v).a = s.a := rfl
@[simp] theorem State.setRun_x (s : State) (v : RunState) : (s.setRun v).x = s.x := rfl
@[simp] theorem State.setRun_y (s : State) (v : RunState) : (s.setRun v).y = s.y := rfl
@[simp] theorem State.setRun_p (s : State) (v : RunState) : (s.setRun v).p = s.p := rfl
@[simp] theorem State.setRun_pc (s : State) (v : RunState) : (s.setRun v).pc = s.pc := rfl
@[simp] theorem State.setRun_sp (s : State) (v : RunState) : (s.setRun v).sp = s.sp := rfl
@[simp] theorem State.setRun_run (s : State) (v : RunState) : (s.setRun v).run = v := rfl
@[simp] theorem State.setRun_fault (s : State) (v : RunState) : (s.setRun v).fault = s.fault := rfl
@[simp] theorem State.setRun_mem (s : State) (v : RunState) : (s.setRun v).mem = s.mem := rfl
@[simp] theorem State.setRun_read (s : State) (v : RunState) (a : Addr) : (s.setRun v).read a = s.read a := rfl
@[simp] theorem State.setRun_readWord (s : State) (v : RunState) (a : Addr) : (s.setRun v).readWord a = s.readWord a := rfl
@[simp] theorem State.setRun_flag (s : State) (v : RunState) (f : Flag) : (s.setRun v).flag f = s.flag f := rfl

@[simp] theorem State.write_a (s : State) (a : Addr) (v : Byte) : (s.write a v).a = s.a := rfl
@[simp] theorem State.write_x (s : State) (a : Addr) (v : Byte) : (s.write a v).x = s.x := rfl
@[simp] theorem State.write_y (s : State) (a : Addr) (v : Byte) : (s.write a v).y = s.y := rfl
@[simp] theorem State.write_p (s : State) (a : Addr) (v : Byte) : (s.write a v).p = s.p := rfl
@[simp] theorem State.write_pc (s : State) (a : Addr) (v : Byte) : (s.write a v).pc = s.pc := rfl
@[simp] theorem State.write_sp (s : State) (a : Addr) (v : Byte) : (s.write a v).sp = s.sp := rfl
@[simp] theorem State.write_run (s : State) (a : Addr) (v : Byte) : (s.write a v).run = s.run := rfl
@[simp] theorem State.write_fault (s : State) (a : Addr) (v : Byte) : (s.write a v).fault = s.fault := rfl
@[simp] theorem State.write_mem (s : State) (a : Addr) (v : Byte) : (s.write a v).mem = s.mem.write a.toNat v := rfl
@[simp] theorem State.write_flag (s : State) (a : Addr) (v : Byte) (f : Flag) : (s.write a v).flag f = s.flag f := rfl

@[simp] theorem State.raise_a (s : State) (k : FatalKind) (opc : Byte) (pc0 : Addr) :
    (s.raise k opc pc0).a = s.a := rfl
@[simp] theorem State.raise_x (s : State) (k : FatalKind) (opc : Byte) (pc0 : Addr) :
    (s.raise k opc pc0).x = s.x := rfl
@[simp] theorem State.raise_y (s : State) (k : FatalKind) (opc : Byte) (pc0 : Addr) :
    (s.raise k opc pc0).y = s.y := rfl
@[simp] theorem State.raise_p (s : State) (k : FatalKind) (opc : Byte) (pc0 : Addr) :
    (s.raise k opc pc0).p = s.p := rfl
@[simp] theorem State.raise_pc (s : State) (k : FatalKind) (opc : Byte) (pc0 : Addr) :
    (s.raise k opc pc0).pc = s.pc := rfl
@[simp] theorem State.raise_sp (s : State) (k : FatalKind) (opc : Byte) (pc0 : Addr) :
    (s.raise k opc pc0).sp = s.sp := rfl
@[simp] theorem State.raise_run (s : State) (k : FatalKind) (opc : Byte) (pc0 : Addr) :
    (s.raise k opc pc0).run = .faulted := rfl
@[simp] theorem State.raise_fault (s : State) (k : FatalKind) (opc : Byte) (pc0 : Addr) :
    (s.raise k opc pc0).fault = some ⟨k, opc, pc0⟩ := rfl
@[simp] theorem State.raise_mem (s : State) (k : FatalKind) (opc : Byte) (pc0 : Addr) :
    (s.raise k opc pc0).mem = s.mem := rfl
@[simp] theorem State.raise_read (s : State) (k : FatalKind) (opc : Byte) (pc0 a : Addr) :
    (s.raise k opc pc0).read a = s.read a := rfl
@[simp] theorem State.raise_flag (s : State) (k : FatalKind) (opc : Byte) (pc0 : Addr) (f : Flag) :
    (s.raise k opc pc0).flag f = s.flag f := rfl

@[simp] theorem State.setFlag_a (s : State) (f : Flag) (v : Bool) : (s.setFlag f v).a = s.a := rfl
@[simp] theorem State.setFlag_x (s : State) (f : Flag) (v : Bool) : (s.setFlag f v).x = s.x := rfl
@[simp] theorem State.setFlag_y (s : State) (f : Flag) (v : Bool) : (s.setFlag f v).y = s.y := rfl
@[simp] theorem State.setFlag_p (s : State) (f : Flag) (v : Bool) : (s.setFlag f v).p = putFlag f v s.p := rfl
@[simp] theorem State.setFlag_pc (s : State) (f : Flag) (v : Bool) : (s.setFlag f v).pc = s.pc := rfl
@[simp] theorem State.setFlag_sp (s : State) (f : Flag) (v : Bool) : (s.setFlag f v).sp = s.sp := rfl
@[simp] theorem State.setFlag_run (s : State) (f : Flag) (v : Bool) : (s.setFlag f v).run = s.run := rfl
@[simp] theorem State.setFlag_fault (s : State) (f : Flag) (v : Bool) : (s.setFlag f v).fault = s.fault := rfl
@[simp] theorem State.setFlag_mem (s : State) (f : Flag) (v : Bool) : (s.setFlag f v).mem = s.mem := rfl
@[simp] theorem State.setFlag_read (s : State) (f : Flag) (v : Bool) (a : Addr) :
    (s.setFlag f v).read a = s.read a := rfl

@[simp] theorem State.push_a (s : State) (v : Byte) : (s.push v).a = s.a := rfl
@[simp] theorem State.push_x (s : State) (v : Byte) : (s.push v).x = s.x := rfl
@[simp] theorem State.push_y (s : State) (v : Byte) : (s.push v).y = s.y := rfl
@[simp] theorem State.push_p (s : State) (v : Byte) : (s.push v).p = s.p := rfl
@[simp] theorem State.push_pc (s : State) (v : Byte) : (s.push v).pc = s.pc := rfl
@[simp] theorem State.push_sp (s : State) (v : Byte) : (s.push v).sp = s.sp - 1 := rfl
@[simp] theorem State.push_run (s : State) (v : Byte) : (s.push v).run = s.run := rfl
@[simp] theorem State.push_fault (s : State) (v : Byte) : (s.push v).fault = s.fault := rfl
@[simp] theorem State.push_mem (s : State) (v : Byte) : (s.push v).mem = s.mem.write (stackAddr s.sp).toNat v := rfl
@[simp] theorem State.push_flag (s : State) (v : Byte) (f : Flag) : (s.push v).flag f = s.flag f := rfl

@[simp] theorem State.afterPop_a (s : State) : s.afterPop.a = s.a := rfl
@[simp] theorem State.afterPop_x (s : State) : s.afterPop.x = s.x := rfl
@[simp] theorem State.afterPop_y (s : State) : s.afterPop.y = s.y := rfl
@[simp] theorem State.afterPop_p (s : State) : s.afterPop.p = s.p := rfl
@[simp] theorem State.afterPop_pc (s : State) : s.afterPop.pc = s.pc := rfl
@[simp] theorem State.afterPop_sp (s : State) : s.afterPop.sp = s.sp + 1 := rfl
@[simp] theorem State.afterPop_run (s : State) : s.afterPop.run = s.run := rfl
@[simp] theorem State.afterPop_fault (s : State) : s.afterPop.fault = s.fault := rfl
@[simp] theorem State.afterPop_mem (s : State) : s.afterPop.mem = s.mem.write (stackAddr (s.sp + 1)).toNat 0x00 := rfl
@[simp] theorem State.afterPop_flag (s : State) (f : Flag) : s.afterPop.flag f = s.flag f := rfl

end Sys2Proof.Machine
end

