-- ==== Sys2Proof/Laws/Memory.lean ====
section
/-! SUPPORT. Memory: a read after a write, on any list, and that every memory operation keeps the canonical form. -/

namespace Sys2Proof.Machine

@[simp] theorem Memory.read_nil (a : Nat) : Memory.read [] a = Config.unlistedByte := rfl

theorem Memory.read_cons (b : Nat) (v : Byte) (rest : Memory) (a : Nat) :
    Memory.read ((b, v) :: rest) a = if a = b then v else Memory.read rest a := rfl

theorem Memory.read_unlist (m : Memory) (a b : Nat) :
    Memory.read (m.unlist a) b = if b = a then Config.unlistedByte else m.read b := by
  induction m with
  | nil => simp [Memory.unlist]
  | cons c rest ih =>
    obtain ⟨k, v⟩ := c
    unfold Memory.unlist at ih ⊢
    by_cases hk : k = a <;> by_cases hb : b = k <;> simp_all [Memory.read_cons]

theorem Memory.read_enlist (m : Memory) (a b : Nat) (v : Byte) (h : ∀ c ∈ m, c.1 ≠ a) :
    Memory.read (m.enlist a v) b = if b = a then v else m.read b := by
  induction m with
  | nil => simp [Memory.enlist, Memory.read_cons]
  | cons c rest ih =>
    obtain ⟨k, w⟩ := c
    have hk : k ≠ a := h (k, w) (by simp)
    have ih' := ih fun c hc => h c (by simp [hc])
    by_cases hlt : a < k
    · simp [Memory.enlist, hlt, Memory.read_cons]
    · by_cases hbk : b = k
      · subst hbk; simp [Memory.enlist, hlt, Memory.read_cons, hk]
      · simp [Memory.enlist, hlt, Memory.read_cons, hbk, ih']

theorem Memory.unlist_ne (m : Memory) (a : Nat) : ∀ c ∈ m.unlist a, c.1 ≠ a := by
  intro c hc
  simpa using (List.mem_filter.mp hc).2

/-- Reading after a write: the byte written at its address, and the old byte everywhere else. -/
theorem Memory.read_write (m : Memory) (a b : Nat) (v : Byte) :
    Memory.read (m.write a v) b = if b = a then v else m.read b := by
  unfold Memory.write
  split
  · rename_i hv; rw [Memory.read_unlist, hv]
  · rw [Memory.read_enlist _ _ _ _ (m.unlist_ne a), Memory.read_unlist]
    by_cases h : b = a <;> simp [h]

@[simp] theorem Memory.wf_nil : Memory.wf [] := by simp [Memory.wf]

theorem Memory.wf_unlist (m : Memory) (a : Nat) (h : m.wf) : (m.unlist a).wf :=
  ⟨h.1.filter _, fun c hc => h.2 c (List.mem_filter.mp hc).1⟩

theorem Memory.mem_enlist (m : Memory) (a : Nat) (v : Byte) (c : Host.Cell) :
    c ∈ m.enlist a v ↔ c = (a, v) ∨ c ∈ m := by
  induction m with
  | nil => simp [Memory.enlist]
  | cons d rest ih =>
    obtain ⟨k, w⟩ := d
    by_cases hlt : a < k
    · simp [Memory.enlist, hlt]
    · simp [Memory.enlist, hlt, ih]; tauto

theorem Memory.wf_enlist (m : Memory) (a : Nat) (v : Byte) (h : m.wf) (ha : a < 65536)
    (hv : v ≠ Config.unlistedByte) (hne : ∀ c ∈ m, c.1 ≠ a) : (m.enlist a v).wf := by
  refine ⟨?_, fun c hc => ?_⟩
  · have hp := h.1
    clear h
    induction m with
    | nil => simp [Memory.enlist]
    | cons d rest ih =>
      obtain ⟨k, w⟩ := d
      obtain ⟨hk, hrest⟩ := List.pairwise_cons.mp hp
      have hka : k ≠ a := hne (k, w) (by simp)
      by_cases hlt : a < k
      · simp only [Memory.enlist, hlt, if_true]
        refine List.pairwise_cons.mpr ⟨fun c hc => ?_, hp⟩
        rcases List.mem_cons.mp hc with rfl | hc
        · exact hlt
        · exact lt_trans hlt (hk c hc)
      · simp only [Memory.enlist, hlt, if_false]
        refine List.pairwise_cons.mpr ⟨fun c hc => ?_, ih (fun c hc => hne c (by simp [hc])) hrest⟩
        rcases (Memory.mem_enlist rest a v c).mp hc with rfl | hc
        · show k < a
          omega
        · exact hk c hc
  · rcases (Memory.mem_enlist m a v c).mp hc with rfl | hc
    · exact ⟨ha, hv⟩
    · exact h.2 c hc

/-- A write to an address of the address space keeps the canonical form. -/
theorem Memory.wf_write (m : Memory) (a : Nat) (v : Byte) (h : m.wf) (ha : a < 65536) : (m.write a v).wf := by
  unfold Memory.write
  split
  · exact m.wf_unlist a h
  · exact Memory.wf_enlist _ _ _ (m.wf_unlist a h) ha ‹_› (m.unlist_ne a)

/-- A write through the memory port keeps the canonical form. -/
theorem State.write_wf (s : State) (a : Addr) (v : Byte) (h : s.mem.wf) : (s.write a v).mem.wf :=
  Memory.wf_write _ _ _ h a.isLt

/-- `MemRead` after `MemWrite` through the memory port. -/
theorem State.read_write (s : State) (a b : Addr) (v : Byte) :
    (s.write a v).read b = if b = a then v else s.read b := by
  simp only [State.read, State.write_mem, Memory.read_write, BitVec.toNat_inj]

theorem State.push_wf (s : State) (v : Byte) (h : s.mem.wf) : (s.push v).mem.wf :=
  Memory.wf_write _ _ _ h (stackAddr s.sp).isLt

theorem State.afterPop_wf (s : State) (h : s.mem.wf) : s.afterPop.mem.wf := by
  rw [State.afterPop_mem]
  exact Memory.wf_write _ _ _ h (stackAddr (s.sp + 1)).isLt

theorem reset_memory_wf : State.reset.mem.wf := Memory.wf_nil

end Sys2Proof.Machine
end

