-- ==== Sys2Proof/Laws/Ops.lean ====
section
/-! SUPPORT. One lemma per shared operation, saying once what it can do: the frame of a handler, the shapes of handler
(operand reader, read-modify-write, one-byte instruction, branch, shift), the operand forms, and the stack. -/

namespace Sys2Proof.Machine

/-! ### Operands -/

/-- The memory operand does not depend on PC: an Immediate datum is held by the instruction. -/
@[simp] theorem memoryOperand_setPC (o : Operand) (s : State) (v : Addr) :
    memoryOperand o (s.setPC v) = memoryOperand o s := by
  cases o <;> rfl

/-- Every mode but Implied has a memory operand. -/
theorem memoryOperand_isSome (o : Operand) (s : State) : (memoryOperand o s).isSome = true ↔ o ≠ .implied := by
  cases o <;> simp [memoryOperand, effectiveAddress]

/-- Every mode but Implied has an effective address. -/
theorem effectiveAddress_isSome (o : Operand) (s : State) :
    (effectiveAddress o s).isSome = true ↔ o ≠ .implied := by
  cases o <;> simp [effectiveAddress]

/-! ### The frame of a handler -/

/-- The state after `setPC` of PC itself. -/
@[simp] theorem State.setPC_self (s : State) : s.setPC s.pc = s := rfl

@[simp] theorem State.setPC_setPC (s : State) (v w : Addr) : (s.setPC v).setPC w = s.setPC w := rfl

/-- Everything a step around a handler can do. -/
theorem runHandler_cases {len : Nat} {h : State → Handled} {s t : State} (ht : runHandler len h s = .next t) :
    (∃ u, h (s.setPC (s.pc + 1)) = .fallThrough u ∧ t = u.setPC (u.pc + BitVec.ofNat 16 (len - 1))) ∨
    h (s.setPC (s.pc + 1)) = .jumped t ∨
    (h (s.setPC (s.pc + 1)) = .misuse ∧ t = s.raiseHere .addressingModeMisuse) := by
  unfold runHandler at ht
  split at ht <;> cases ht
  · exact .inl ⟨_, ‹_›, rfl⟩
  · exact .inr (.inl ‹_›)
  · exact .inr (.inr ⟨‹_›, rfl⟩)

/-- A handler that completes without writing PC. -/
theorem runHandler_fallThrough {len : Nat} {h : State → Handled} {s u : State}
    (hu : h (s.setPC (s.pc + 1)) = .fallThrough u) :
    runHandler len h s = .next (u.setPC (u.pc + BitVec.ofNat 16 (len - 1))) := by
  unfold runHandler; rw [hu]

/-- A handler that writes PC. -/
theorem runHandler_jumped {len : Nat} {h : State → Handled} {s u : State}
    (hu : h (s.setPC (s.pc + 1)) = .jumped u) : runHandler len h s = .next u := by
  unfold runHandler; rw [hu]

/-- A handler that asks for an effective address there is none of. -/
theorem runHandler_misuse {len : Nat} {h : State → Handled} {s : State}
    (hu : h (s.setPC (s.pc + 1)) = .misuse) : runHandler len h s = .next (s.raiseHere .addressingModeMisuse) := by
  unfold runHandler; rw [hu]

/-- An operand-reading handler on an operand that is there. -/
theorem withOperand_some {o : Operand} {k : Byte → State → State} {s : State} {m : Byte}
    (h : memoryOperand o s = some m) : withOperand o k s = .fallThrough (k m s) := by
  simp [withOperand, h]

/-- An operand-reading handler in Implied mode. -/
theorem withOperand_none {o : Operand} {k : Byte → State → State} {s : State}
    (h : memoryOperand o s = none) : withOperand o k s = .misuse := by
  simp [withOperand, h]

/-- A read-modify-write on an address that is there. -/
theorem modifyMemory_some {o : Operand} {f : Byte → Byte} {g : Byte → Byte → Byte} {s : State} {a : Addr}
    (h : effectiveAddress o s = some a) :
    modifyMemory o f g s = .fallThrough ((s.write a (f (s.read a))).setP (g (s.read a) s.p)) := by
  simp [modifyMemory, h]

/-- A read-modify-write in Implied mode. -/
theorem modifyMemory_none {o : Operand} {f : Byte → Byte} {g : Byte → Byte → Byte} {s : State}
    (h : effectiveAddress o s = none) : modifyMemory o f g s = .misuse := by
  simp [modifyMemory, h]

/-- A shift in Implied mode acts on A; in any other mode it is a read-modify-write. -/
theorem shiftHandler_eq (op : Bool → Byte → Byte × Bool) (o : Operand) (s : State) :
    shiftHandler op o s =
      if o = .implied then
        .fallThrough ((s.setA (op (s.flag .c) s.a).1).setP (shiftFlags (op (s.flag .c) s.a) s.p))
      else modifyMemory o (fun v => (op (s.flag .c) v).1) (fun v p => shiftFlags (op (s.flag .c) v) p) s := by
  cases o <;> simp [shiftHandler]

/-- A one-byte instruction completes with its effect and PC one further. -/
theorem implied_eq (f : State → State) (s : State) : implied f s = .next (f (s.setPC (s.pc + 1))) := by
  have h := runHandler_fallThrough (len := Operand.implied.length) (h := fun t => .fallThrough (f t)) (s := s) rfl
  unfold implied
  rw [h]
  simp [Operand.length, Operand.mode, Mode.length]

/-- A branch completes: PC at the target if it is taken, at the next instruction if not, and nothing else changed. -/
theorem branch_eq (f : Flag) (v : Bool) (d : Byte) (s : State) :
    branch f v d s = .next (s.setPC (if s.flag f = v ∧ d ≠ 0 then s.pc + 2 + sext d else s.pc + 2)) := by
  have two (w : Addr) : w + 1 + 1 = w + 2 := by rw [BitVec.add_assoc]; rfl
  unfold branch
  by_cases h : s.flag f = v ∧ d ≠ 0
  · rw [if_pos h, runHandler_jumped (u := s.setPC (s.pc + 2 + sext d))]
    simp only [branchHandler, State.setPC_flag, beq_iff_eq, if_pos h, State.setPC_pc, two, State.setPC_setPC]
  · rw [if_neg h, runHandler_fallThrough (u := s.setPC (s.pc + 1))]
    · exact congrArg (fun w => Host.Outcome.next (s.setPC w)) (two s.pc)
    · simp only [branchHandler, State.setPC_flag, beq_iff_eq, if_neg h]

/-- Everything an operand-reading instruction can do: its effect, with PC past its bytes, or, in Implied mode, the
misuse. -/
theorem runHandler_withOperand (n : Nat) (o : Operand) (k : Byte → State → State) (s : State) :
    (∃ m u, memoryOperand o s = some m ∧ u = k m (s.setPC (s.pc + 1)) ∧
      runHandler n (withOperand o k) s = .next (u.setPC (u.pc + BitVec.ofNat 16 (n - 1)))) ∨
    (o = .implied ∧ runHandler n (withOperand o k) s = .next (s.raiseHere .addressingModeMisuse)) := by
  cases h : memoryOperand o s with
  | some m => exact .inl ⟨m, _, rfl, rfl, runHandler_fallThrough (withOperand_some (by simpa using h))⟩
  | none =>
    refine .inr ⟨?_, runHandler_misuse (withOperand_none (by simpa using h))⟩
    by_contra ho
    simpa [h] using (memoryOperand_isSome o s).mpr ho

/-- Everything a read-modify-write can do. -/
theorem runHandler_modifyMemory (n : Nat) (o : Operand) (f : Byte → Byte) (g : Byte → Byte → Byte) (s : State) :
    (∃ a, effectiveAddress o (s.setPC (s.pc + 1)) = some a ∧
      runHandler n (modifyMemory o f g) s =
        .next (((s.write a (f (s.read a))).setP (g (s.read a) s.p)).setPC (s.pc + 1 + BitVec.ofNat 16 (n - 1)))) ∨
    (o = .implied ∧ runHandler n (modifyMemory o f g) s = .next (s.raiseHere .addressingModeMisuse)) := by
  cases h : effectiveAddress o (s.setPC (s.pc + 1)) with
  | some a => exact .inl ⟨a, rfl, runHandler_fallThrough (modifyMemory_some h)⟩
  | none =>
    refine .inr ⟨?_, runHandler_misuse (modifyMemory_none h)⟩
    by_contra ho
    have := (effectiveAddress_isSome o (s.setPC (s.pc + 1))).mpr ho
    rw [h] at this
    cases this

/-- Everything a shift can do: A in Implied mode, the byte at the effective address in the others. -/
theorem runHandler_shiftHandler (n : Nat) (op : Bool → Byte → Byte × Bool) (o : Operand) (s : State) :
    (o = .implied ∧ runHandler n (shiftHandler op o) s =
      .next (((s.setA (op (s.flag .c) s.a).1).setP (shiftFlags (op (s.flag .c) s.a) s.p)).setPC
        (s.pc + 1 + BitVec.ofNat 16 (n - 1)))) ∨
    (∃ a, o ≠ .implied ∧ effectiveAddress o (s.setPC (s.pc + 1)) = some a ∧
      runHandler n (shiftHandler op o) s =
        .next (((s.write a (op (s.flag .c) (s.read a)).1).setP (shiftFlags (op (s.flag .c) (s.read a)) s.p)).setPC
          (s.pc + 1 + BitVec.ofNat 16 (n - 1)))) := by
  by_cases ho : o = .implied
  · subst ho; exact .inl ⟨rfl, rfl⟩
  · obtain ⟨a, ha⟩ := Option.isSome_iff_exists.mp ((effectiveAddress_isSome o (s.setPC (s.pc + 1))).mpr ho)
    refine .inr ⟨a, ho, ha, ?_⟩
    have := runHandler_fallThrough (len := n) (h := shiftHandler op o) (s := s)
      (by rw [shiftHandler_eq, if_neg ho, modifyMemory_some ha])
    exact this

/-! ### The stack -/

theorem stackAddr_toNat (sp : Byte) : (stackAddr sp).toNat = 256 + sp.toNat := by
  have := sp.isLt
  simp [stackAddr, Config.stackPage, zext]
  omega

/-- Stack addresses of different SP values differ. -/
theorem stackAddr_inj {p q : Byte} : stackAddr p = stackAddr q ↔ p = q := by
  constructor
  · intro h
    have := congrArg BitVec.toNat h
    rw [stackAddr_toNat, stackAddr_toNat] at this
    exact BitVec.eq_of_toNat_eq (by omega)
  · rintro rfl; rfl

/-- Memory after a push. -/
theorem State.push_read (s : State) (v : Byte) (a : Addr) :
    (s.push v).read a = if a = stackAddr s.sp then v else s.read a := by
  simp [State.push, State.read_write]

/-- Memory after a pop: the slot is zeroed. -/
theorem State.afterPop_read (s : State) (a : Addr) :
    s.afterPop.read a = if a = stackAddr (s.sp + 1) then 0x00 else s.read a := by
  simp [State.afterPop, State.read_write]

theorem State.push_read_of_ne {s : State} {v : Byte} {a : Addr} (h : a ≠ stackAddr s.sp) :
    (s.push v).read a = s.read a := by
  rw [State.push_read, if_neg h]

theorem State.afterPop_read_of_ne {s : State} {a : Addr} (h : a ≠ stackAddr (s.sp + 1)) :
    s.afterPop.read a = s.read a := by
  rw [State.afterPop_read, if_neg h]

end Sys2Proof.Machine
end

