-- ==== Sys2Proof/Laws/Exec.lean ====
section
/-! SUPPORT. Each instruction as one of the shared shapes, all true by rfl: with the shape lemmas of Laws/Ops.lean a
proof about `exec` unfolds no meaning. -/

namespace Sys2Proof.Machine

@[simp] theorem exec_adc (o : Operand) (s : State) :
    exec (.adc o) s = runHandler o.length (withOperand o fun m t => (t.setA (adcResult t.a m (t.flag .c))).setP (adcFlags t.a m t.p)) s := rfl
@[simp] theorem exec_and (o : Operand) (s : State) :
    exec (.and o) s = runHandler o.length (withOperand o fun m t => loadA (t.a &&& m) t) s := rfl
@[simp] theorem exec_ora (o : Operand) (s : State) :
    exec (.ora o) s = runHandler o.length (withOperand o fun m t => loadA (t.a ||| m) t) s := rfl
@[simp] theorem exec_eor (o : Operand) (s : State) :
    exec (.eor o) s = runHandler o.length (withOperand o fun m t => loadA (t.a ^^^ m) t) s := rfl
@[simp] theorem exec_asl (o : Operand) (s : State) :
    exec (.asl o) s = runHandler o.length (shiftHandler aslOp o) s := rfl
@[simp] theorem exec_lsr (o : Operand) (s : State) :
    exec (.lsr o) s = runHandler o.length (shiftHandler lsrOp o) s := rfl
@[simp] theorem exec_rol (o : Operand) (s : State) :
    exec (.rol o) s = runHandler o.length (shiftHandler rolOp o) s := rfl
@[simp] theorem exec_ror (o : Operand) (s : State) :
    exec (.ror o) s = runHandler o.length (shiftHandler rorOp o) s := rfl
@[simp] theorem exec_bcc (d : Byte) (s : State) : exec (.bcc d) s = branch .c false d s := rfl
@[simp] theorem exec_bcs (d : Byte) (s : State) : exec (.bcs d) s = branch .c true d s := rfl
@[simp] theorem exec_beq (d : Byte) (s : State) : exec (.beq d) s = branch .z true d s := rfl
@[simp] theorem exec_bmi (d : Byte) (s : State) : exec (.bmi d) s = branch .n true d s := rfl
@[simp] theorem exec_bne (d : Byte) (s : State) : exec (.bne d) s = branch .z false d s := rfl
@[simp] theorem exec_bpl (d : Byte) (s : State) : exec (.bpl d) s = branch .n false d s := rfl
@[simp] theorem exec_bvc (d : Byte) (s : State) : exec (.bvc d) s = branch .v false d s := rfl
@[simp] theorem exec_bvs (d : Byte) (s : State) : exec (.bvs d) s = branch .v true d s := rfl
@[simp] theorem exec_bit (o : Operand) (s : State) :
    exec (.bit o) s = runHandler o.length (withOperand o fun m t => t.setP (bitFlags t.a m t.p)) s := rfl
@[simp] theorem exec_cmp (o : Operand) (s : State) :
    exec (.cmp o) s = runHandler o.length (withOperand o fun m t => t.setP (compareFlags t.a m t.p)) s := rfl
@[simp] theorem exec_cpx (o : Operand) (s : State) :
    exec (.cpx o) s = runHandler o.length (withOperand o fun m t => t.setP (compareFlags t.x m t.p)) s := rfl
@[simp] theorem exec_cpy (o : Operand) (s : State) :
    exec (.cpy o) s = runHandler o.length (withOperand o fun m t => t.setP (compareFlags t.y m t.p)) s := rfl
@[simp] theorem exec_dec (o : Operand) (s : State) :
    exec (.dec o) s = runHandler o.length (modifyMemory o (· - 1) (fun v p => setZN (v - 1) p)) s := rfl
@[simp] theorem exec_inc (o : Operand) (s : State) :
    exec (.inc o) s = runHandler o.length (modifyMemory o (· + 1) (fun v p => setZN (v + 1) p)) s := rfl
@[simp] theorem exec_dex (s : State) : exec .dex s = implied (fun t => loadX (t.x - 1) t) s := rfl
@[simp] theorem exec_dey (s : State) : exec .dey s = implied (fun t => loadY (t.y - 1) t) s := rfl
@[simp] theorem exec_inx (s : State) : exec .inx s = implied (fun t => loadX (t.x + 1) t) s := rfl
@[simp] theorem exec_iny (s : State) : exec .iny s = implied (fun t => loadY (t.y + 1) t) s := rfl
@[simp] theorem exec_lda (o : Operand) (s : State) :
    exec (.lda o) s = runHandler o.length (withOperand o loadA) s := rfl
@[simp] theorem exec_ldx (o : Operand) (s : State) :
    exec (.ldx o) s = runHandler o.length (withOperand o loadX) s := rfl
@[simp] theorem exec_ldy (o : Operand) (s : State) :
    exec (.ldy o) s = runHandler o.length (withOperand o loadY) s := rfl
@[simp] theorem exec_tax (s : State) : exec .tax s = implied (fun t => loadX t.a t) s := rfl
@[simp] theorem exec_tay (s : State) : exec .tay s = implied (fun t => loadY t.a t) s := rfl
@[simp] theorem exec_jmp (o : Operand) (s : State) :
    exec (.jmp o) s = runHandler o.length (fun t =>
      match effectiveAddress o t with
      | some a => .jumped (t.setPC a)
      | none => .misuse) s := rfl
@[simp] theorem exec_jsr (w : Addr) (s : State) :
    exec (.jsr w) s = runHandler 3
      (fun t => .jumped (((t.push (highByte (t.pc + 1))).push (lowByte (t.pc + 1))).setPC w)) s := rfl
@[simp] theorem exec_pha (s : State) : exec .pha s = implied (fun t => t.push t.a) s := rfl
@[simp] theorem exec_php (s : State) : exec .php s = implied (fun t => t.push t.p) s := rfl
@[simp] theorem exec_pla (s : State) : exec .pla s = implied (fun t => loadA t.popped t.afterPop) s := rfl
@[simp] theorem exec_plp (s : State) : exec .plp s = implied (fun t => t.afterPop.setP t.popped) s := rfl
@[simp] theorem exec_rti (s : State) :
    exec .rti s = runHandler 1 (fun t => .jumped
      ((t.afterPop.setP t.popped).afterPop.afterPop.setPC
        (concat (t.afterPop.setP t.popped).afterPop.popped (t.afterPop.setP t.popped).popped))) s := rfl
@[simp] theorem exec_clc (s : State) : exec .clc s = implied (fun t => t.setFlag .c false) s := rfl
@[simp] theorem exec_cld (s : State) : exec .cld s = implied (fun t => t.setFlag .d false) s := rfl
@[simp] theorem exec_cli (s : State) : exec .cli s = implied (fun t => t.setFlag .i false) s := rfl
@[simp] theorem exec_clv (s : State) : exec .clv s = implied (fun t => t.setFlag .v false) s := rfl
@[simp] theorem exec_nop (s : State) : exec .nop s = implied (fun t => t) s := rfl
@[simp] theorem exec_brk (s : State) : exec .brk s = implied (fun t => t.setRun .halted) s := rfl
@[simp] theorem exec_sbc (o : Operand) (s : State) : exec (.sbc o) s = notImplemented s := rfl
@[simp] theorem exec_sta (o : Operand) (s : State) : exec (.sta o) s = notImplemented s := rfl
@[simp] theorem exec_stx (o : Operand) (s : State) : exec (.stx o) s = notImplemented s := rfl
@[simp] theorem exec_sty (o : Operand) (s : State) : exec (.sty o) s = notImplemented s := rfl
@[simp] theorem exec_sec (s : State) : exec .sec s = notImplemented s := rfl
@[simp] theorem exec_sed (s : State) : exec .sed s = notImplemented s := rfl
@[simp] theorem exec_sei (s : State) : exec .sei s = notImplemented s := rfl
@[simp] theorem exec_tsx (s : State) : exec .tsx s = notImplemented s := rfl
@[simp] theorem exec_txa (s : State) : exec .txa s = notImplemented s := rfl
@[simp] theorem exec_txs (s : State) : exec .txs s = notImplemented s := rfl
@[simp] theorem exec_tya (s : State) : exec .tya s = notImplemented s := rfl
@[simp] theorem exec_rts (s : State) : exec .rts s = notImplemented s := rfl

/-- Everything JMP can do: only PC changes. -/
theorem exec_jmp_cases (o : Operand) (s : State) :
    (∃ a, exec (.jmp o) s = .next (s.setPC a)) ∨
    (o = .implied ∧ exec (.jmp o) s = .next (s.raiseHere .addressingModeMisuse)) := by
  cases o <;> first | exact .inl ⟨_, rfl⟩ | exact .inr ⟨rfl, rfl⟩

/-- The state JSR leaves. -/
theorem exec_jsr_next (w : Addr) (s : State) :
    exec (.jsr w) s = .next (((s.push (highByte (s.pc + 1 + 1))).push (lowByte (s.pc + 1 + 1))).setPC w) := rfl

/-- The state RTI leaves. -/
theorem exec_rti_next (s : State) :
    exec .rti s = .next ((s.afterPop.setP s.popped).afterPop.afterPop.setPC
      (concat (s.afterPop.setP s.popped).afterPop.popped (s.afterPop.setP s.popped).popped)) := rfl

end Sys2Proof.Machine
end

