-- ==== Sys2Proof/Laws/PerInstr.lean ====
section
/-! SUPPORT. Statements about every instruction as syntax, one lemma per constructor. The family EncodedLength: a
well-formed instruction has an encoding, of the length its mode fixes (spec/30_encoding.md R61). -/

namespace Sys2Proof.Laws.EncodedLength

/-- The encoding exists and is as long as the mode says. -/
def Statement (i : Instr) : Prop :=
  i.wellFormed = true → ∃ bytes, encode i = some bytes ∧ bytes.length = i.length

/-- The shared argument: the pair has an opcode byte, and the operand the bytes its mode has. -/
theorem of_parts (i : Instr) : Statement i := by
  intro h
  obtain ⟨opc, hopc⟩ := Option.isSome_iff_exists.mp (Mnemonic.opcodeAt_isSome i.mnemonic i.operand.mode h)
  refine ⟨opc :: i.operand.bytes, by rw [encode, hopc]; rfl, ?_⟩
  rw [List.length_cons, Operand.bytes_length, Instr.length]

theorem adc (o : Operand) : Statement (.adc o) := of_parts _
theorem and (o : Operand) : Statement (.and o) := of_parts _
theorem ora (o : Operand) : Statement (.ora o) := of_parts _
theorem eor (o : Operand) : Statement (.eor o) := of_parts _
theorem asl (o : Operand) : Statement (.asl o) := of_parts _
theorem lsr (o : Operand) : Statement (.lsr o) := of_parts _
theorem rol (o : Operand) : Statement (.rol o) := of_parts _
theorem ror (o : Operand) : Statement (.ror o) := of_parts _
theorem bcc (d : Byte) : Statement (.bcc d) := of_parts _
theorem bcs (d : Byte) : Statement (.bcs d) := of_parts _
theorem beq (d : Byte) : Statement (.beq d) := of_parts _
theorem bmi (d : Byte) : Statement (.bmi d) := of_parts _
theorem bne (d : Byte) : Statement (.bne d) := of_parts _
theorem bpl (d : Byte) : Statement (.bpl d) := of_parts _
theorem bvc (d : Byte) : Statement (.bvc d) := of_parts _
theorem bvs (d : Byte) : Statement (.bvs d) := of_parts _
theorem bit (o : Operand) : Statement (.bit o) := of_parts _
theorem cmp (o : Operand) : Statement (.cmp o) := of_parts _
theorem cpx (o : Operand) : Statement (.cpx o) := of_parts _
theorem cpy (o : Operand) : Statement (.cpy o) := of_parts _
theorem dec (o : Operand) : Statement (.dec o) := of_parts _
theorem inc (o : Operand) : Statement (.inc o) := of_parts _
theorem dex : Statement .dex := of_parts _
theorem dey : Statement .dey := of_parts _
theorem inx : Statement .inx := of_parts _
theorem iny : Statement .iny := of_parts _
theorem lda (o : Operand) : Statement (.lda o) := of_parts _
theorem ldx (o : Operand) : Statement (.ldx o) := of_parts _
theorem ldy (o : Operand) : Statement (.ldy o) := of_parts _
theorem tax : Statement .tax := of_parts _
theorem tay : Statement .tay := of_parts _
theorem jmp (o : Operand) : Statement (.jmp o) := of_parts _
theorem jsr (target : Addr) : Statement (.jsr target) := of_parts _
theorem pha : Statement .pha := of_parts _
theorem php : Statement .php := of_parts _
theorem pla : Statement .pla := of_parts _
theorem plp : Statement .plp := of_parts _
theorem rti : Statement .rti := of_parts _
theorem clc : Statement .clc := of_parts _
theorem cld : Statement .cld := of_parts _
theorem cli : Statement .cli := of_parts _
theorem clv : Statement .clv := of_parts _
theorem nop : Statement .nop := of_parts _
theorem brk : Statement .brk := of_parts _
theorem sbc (o : Operand) : Statement (.sbc o) := of_parts _
theorem sta (o : Operand) : Statement (.sta o) := of_parts _
theorem stx (o : Operand) : Statement (.stx o) := of_parts _
theorem sty (o : Operand) : Statement (.sty o) := of_parts _
theorem sec : Statement .sec := of_parts _
theorem sed : Statement .sed := of_parts _
theorem sei : Statement .sei := of_parts _
theorem tsx : Statement .tsx := of_parts _
theorem txa : Statement .txa := of_parts _
theorem txs : Statement .txs := of_parts _
theorem tya : Statement .tya := of_parts _
theorem rts : Statement .rts := of_parts _

end Sys2Proof.Laws.EncodedLength
end

