-- ==== Sys2Proof/Laws/Step.lean ====
section
/-! SUPPORT. Everything one step can do, and the values of State.reset as the events give them. -/

namespace Sys2Proof.Machine

/-- What the fetch can answer: the instruction of the entry of the byte at PC. -/
theorem fetchDecode_ok {s : State} {i : Instr} (h : fetchDecode s = .ok i) :
    ∃ d, optable (s.read s.pc) = some d ∧ i = d.instr (s.read (s.pc + 1)) (s.read (s.pc + 2)) ∧
      i.mnemonic = d.mnemonic ∧ i.operand = d.mode.assemble (s.read (s.pc + 1)) (s.read (s.pc + 2)) ∧
      i.wellFormed = true ∧ i.length = d.length := decodeBytes_ok h

/-- The ways a step answers a next state. -/
theorem step_cases {s t : State} (h : step s = .next t) :
    (s.run ≠ .running ∧ t = s) ∨
    (s.run = .running ∧ ∃ i, fetchDecode s = .ok i ∧ exec i s = .next t) ∨
    (s.run = .running ∧ optable (s.read s.pc) = none ∧ t = s.raise .unknownOpcode (s.read s.pc) s.pc) := by
  unfold step at h
  split at h
  · rename_i hr
    split at h
    · exact .inr (.inl ⟨hr, _, ‹_›, h⟩)
    · rename_i e he
      obtain ⟨rfl, hn⟩ := decodeBytes_error he
      cases h
      exact .inr (.inr ⟨hr, hn, rfl⟩)
  · rename_i hr; cases h; exact .inl ⟨by simp [hr], rfl⟩
  · rename_i hr; cases h; exact .inl ⟨by simp [hr], rfl⟩

/-- `State.reset` is the spec's `power_on` followed by `reset(false)` over an empty memory (log 2). -/
theorem reset_eq : State.reset = (State.powerOn []).resetEvent false := by decide

/-- And the power-on state itself, since the vector of an empty memory is 0x0000. -/
theorem reset_eq_powerOn : State.reset = State.powerOn [] := rfl

end Sys2Proof.Machine
end

