-- ==== Sys2Proof/Tests/Slice0.lean ====
section
/-! SUPPORT. The model's own tests. Expected values are from the spec: the Encoding line of an instruction's rule for
decoding, a vector V<n>.<k> of spec/95_test_vectors.md or a rule's own example for one step. At the end, a witness for
every statement that has hypotheses. -/

namespace Sys2Proof.Tests

open Sys2Proof.Machine

/-! ### The start state of the vectors (spec/95_test_vectors.md section 2) -/

/-- The vectors' default start: PC = 0x8000, A = X = Y = 0, P = 0, SP = 0xFF, running. -/
def start : State := { State.powerOn [] with p := 0x00, pc := 0x8000 }

/-- A state with bytes at its PC. -/
def at_ (s : State) (bytes : List Byte) : State := s.writeBytes s.pc bytes

/-- A state with one more byte in memory. -/
def put (s : State) (a : Addr) (v : Byte) : State := s.write a v

/-- The state after one step. -/
def after (s : State) : State :=
  match step s with
  | .next t => t
  | _ => s

/-! ### Well-formedness: a term for each way a pair can fail to be a row -/

/-- Implied where the mnemonic needs a memory operand (R64). -/
theorem test_illformed_implied : (Instr.lda .implied).wellFormed = false := by decide
/-- An immediate where the instruction writes memory. -/
theorem test_illformed_immediate : (Instr.inc (.immediate 0x05)).wellFormed = false := by decide
/-- A store to an immediate. -/
theorem test_illformed_store_immediate : (Instr.sta (.immediate 0x05)).wellFormed = false := by decide
/-- The wrong index register. -/
theorem test_illformed_index : (Instr.ldx (.zeroPageX 0x10)).wellFormed = false := by decide
/-- AbsoluteY for a shift. -/
theorem test_illformed_absoluteY : (Instr.asl (.absoluteY 0x1234)).wellFormed = false := by decide
/-- A zero-page jump. -/
theorem test_illformed_zeroPage : (Instr.jmp (.zeroPage 0x10)).wellFormed = false := by decide
/-- Relative outside the branches. -/
theorem test_illformed_relative : (Instr.bit (.relative 0x02)).wellFormed = false := by decide
/-- Indirect outside JMP. -/
theorem test_illformed_indirect : (Instr.adc (.indirect 0x1234)).wellFormed = false := by decide
/-- IndirectX and IndirectY outside the eight-mode instructions. -/
theorem test_illformed_indirectX : (Instr.cpx (.indirectX 0x20)).wellFormed = false ∧
    (Instr.ldy (.indirectY 0x20)).wellFormed = false := by decide
/-- An ill-formed term has no encoding. -/
theorem test_illformed_not_encoded : encode (.lda .implied) = none ∧ encode (.ldx (.zeroPageX 0x10)) = none := by
  decide

/-! ### Decoding: a word for every constructor, from the Encoding lines, every mode among them -/

/-- One word of each family bit by bit, first byte in the low bits: ADC 0x69, ASL 0x0A, BCC 0x90, BIT 0x2C, LDA 0xA9,
JMP 0x6C, PHA 0x48, CLC 0x18, STA 0x85. -/
theorem test_decode_bits :
    decodeTableWord 16 0b0000000101101001 = some (.adc (.immediate 0x01)) ∧
    decodeTableWord 8 0b00001010 = some (.asl .implied) ∧
    decodeTableWord 16 0b0000001010010000 = some (.bcc 0x02) ∧
    decodeTableWord 24 0b000100100011010000101100 = some (.bit (.absolute 0x1234)) ∧
    decodeTableWord 16 0b0000010110101001 = some (.lda (.immediate 0x05)) ∧
    decodeTableWord 24 0b000100001111111101101100 = some (.jmp (.indirect 0x10FF)) ∧
    decodeTableWord 8 0b01001000 = some .pha ∧
    decodeTableWord 8 0b00011000 = some .clc ∧
    decodeTableWord 16 0b0001000010000101 = some (.sta (.zeroPage 0x10)) := by decide

/-- ADC, AND, ORA, EOR (R110 to R113), in their eight modes. -/
theorem test_decode_arith :
    decodeTableWord 16 0x0169 = some (.adc (.immediate 0x01)) ∧
    decodeTableWord 16 0x1065 = some (.adc (.zeroPage 0x10)) ∧
    decodeTableWord 16 0xF035 = some (.and (.zeroPageX 0xF0)) ∧
    decodeTableWord 24 0x12342D = some (.and (.absolute 0x1234)) ∧
    decodeTableWord 24 0x12F01D = some (.ora (.absoluteX 0x12F0)) ∧
    decodeTableWord 24 0xFFF019 = some (.ora (.absoluteY 0xFFF0)) ∧
    decodeTableWord 16 0x2041 = some (.eor (.indirectX 0x20)) ∧
    decodeTableWord 16 0x2051 = some (.eor (.indirectY 0x20)) := by decide

/-- ASL, LSR, ROL, ROR (R120 to R123). -/
theorem test_decode_shift :
    decodeTableWord 8 0x0A = some (.asl .implied) ∧
    decodeTableWord 16 0x1046 = some (.lsr (.zeroPage 0x10)) ∧
    decodeTableWord 16 0x1036 = some (.rol (.zeroPageX 0x10)) ∧
    decodeTableWord 24 0x12F07E = some (.ror (.absoluteX 0x12F0)) := by decide

/-- The branches (R131 to R138). -/
theorem test_decode_branch :
    decodeTableWord 16 0x0290 = some (.bcc 0x02) ∧ decodeTableWord 16 0x80B0 = some (.bcs 0x80) ∧
    decodeTableWord 16 0x7FF0 = some (.beq 0x7F) ∧ decodeTableWord 16 0xFE30 = some (.bmi 0xFE) ∧
    decodeTableWord 16 0xFBD0 = some (.bne 0xFB) ∧ decodeTableWord 16 0x0410 = some (.bpl 0x04) ∧
    decodeTableWord 16 0x1050 = some (.bvc 0x10) ∧ decodeTableWord 16 0x0270 = some (.bvs 0x02) := by decide

/-- BIT, CMP, CPX, CPY (R140 to R143). -/
theorem test_decode_compare :
    decodeTableWord 16 0x1024 = some (.bit (.zeroPage 0x10)) ∧
    decodeTableWord 16 0x41C9 = some (.cmp (.immediate 0x41)) ∧
    decodeTableWord 16 0x03E0 = some (.cpx (.immediate 0x03)) ∧
    decodeTableWord 24 0x1234CC = some (.cpy (.absolute 0x1234)) := by decide

/-- DEC to TAY (R150 to R160). -/
theorem test_decode_incDecLoad :
    decodeTableWord 24 0x12FFDE = some (.dec (.absoluteX 0x12FF)) ∧
    decodeTableWord 16 0x10E6 = some (.inc (.zeroPage 0x10)) ∧
    decodeTableWord 8 0xCA = some .dex ∧ decodeTableWord 8 0x88 = some .dey ∧
    decodeTableWord 8 0xE8 = some .inx ∧ decodeTableWord 8 0xC8 = some .iny ∧
    decodeTableWord 24 0x80FFB9 = some (.lda (.absoluteY 0x80FF)) ∧
    decodeTableWord 16 0xFFB6 = some (.ldx (.zeroPageY 0xFF)) ∧
    decodeTableWord 16 0x10B4 = some (.ldy (.zeroPageX 0x10)) ∧
    decodeTableWord 8 0xAA = some .tax ∧ decodeTableWord 8 0xA8 = some .tay := by decide

/-- JMP, JSR (R170, R172), PHA to RTI (R180 to R184). -/
theorem test_decode_jump_stack :
    decodeTableWord 24 0x12344C = some (.jmp (.absolute 0x1234)) ∧
    decodeTableWord 24 0x00106C = some (.jmp (.indirect 0x0010)) ∧
    decodeTableWord 24 0x800520 = some (.jsr 0x8005) ∧
    decodeTableWord 8 0x48 = some .pha ∧ decodeTableWord 8 0x08 = some .php ∧
    decodeTableWord 8 0x68 = some .pla ∧ decodeTableWord 8 0x28 = some .plp ∧
    decodeTableWord 8 0x40 = some .rti := by decide

/-- CLC to BRK (R190 to R196). -/
theorem test_decode_flags :
    decodeTableWord 8 0x18 = some .clc ∧ decodeTableWord 8 0xD8 = some .cld ∧ decodeTableWord 8 0x58 = some .cli ∧
    decodeTableWord 8 0xB8 = some .clv ∧ decodeTableWord 8 0xEA = some .nop ∧
    decodeTableWord 8 0x00 = some .brk := by decide

/-- The twelve without a handler (R200 to R211). -/
theorem test_decode_unimplemented :
    decodeTableWord 16 0x01E9 = some (.sbc (.immediate 0x01)) ∧
    decodeTableWord 16 0x1091 = some (.sta (.indirectY 0x10)) ∧
    decodeTableWord 16 0x1096 = some (.stx (.zeroPageY 0x10)) ∧
    decodeTableWord 24 0x02008C = some (.sty (.absolute 0x0200)) ∧
    decodeTableWord 8 0x38 = some .sec ∧ decodeTableWord 8 0xF8 = some .sed ∧ decodeTableWord 8 0x78 = some .sei ∧
    decodeTableWord 8 0xBA = some .tsx ∧ decodeTableWord 8 0x8A = some .txa ∧ decodeTableWord 8 0x9A = some .txs ∧
    decodeTableWord 8 0x98 = some .tya ∧ decodeTableWord 8 0x60 = some .rts := by decide

/-- Bytes in no row are refused by name (R66). -/
theorem test_decode_unknown : decodeBytes 0x02 0 0 = .error (.unknownOpcode 0x02) ∧
    decodeBytes 0x80 0 0 = .error (.unknownOpcode 0x80) ∧ decodeTableWord 8 0xFF = none := ⟨rfl, rfl, by decide⟩

/-- A byte string that ends inside an instruction is refused. -/
theorem test_decode_truncated : decode [0x20, 0x05] = .error .truncated ∧ decode [] = .error .truncated := ⟨rfl, rfl⟩

/-- The encoder, from the examples of R65 and R170. -/
theorem test_encode : encode (.lda (.immediate 0x05)) = some [0xA9, 0x05] ∧
    encode (.jsr 0x8005) = some [0x20, 0x05, 0x80] ∧ encode (.jmp (.absolute 0x1234)) = some [0x4C, 0x34, 0x12] := by
  decide

/-- A word of the table placed where the step fetches is what the step fetches, after reset. -/
theorem test_withFetchWord : fetchDecode (State.reset.withFetchWord 24 0x12347D) = .ok (.adc (.absoluteX 0x1234)) ∧
    (after (State.reset.withFetchWord 8 0xE8)).x = 0x01 := ⟨rfl, by decide⟩

/-- A table that pairs LDA with Implied gives AddressingModeMisuse (the example of R223). -/
theorem test_table_misuse :
    stepWith (fun _ => some ⟨.lda, .implied, 1⟩) (at_ start [0xA9, 0x05]) =
      .next ((at_ start [0xA9, 0x05]).raise .addressingModeMisuse 0xA9 0x8000) := rfl

/-- One that pairs SEC with Immediate gives NotImplemented, which comes first (R80, R226). -/
theorem test_table_unimplemented :
    stepWith (fun _ => some ⟨.sec, .immediate, 2⟩) (at_ start [0x38, 0x05]) =
      .next ((at_ start [0x38, 0x05]).raise .notImplemented 0x38 0x8000) := rfl

/-- One that pairs INX with ZeroPage or BCC with Absolute raises nothing: the handlers of R154 and R130 with the
descriptor's length. -/
theorem test_table_other_modes :
    stepWith (fun _ => some ⟨.inx, .zeroPage, 2⟩) (at_ start [0xE8, 0x10]) =
      .next (((at_ start [0xE8, 0x10]).setX 0x01).setPC 0x8002) ∧
    stepWith (fun _ => some ⟨.bcc, .absolute, 3⟩) (at_ start [0x90, 0x02, 0xA9]) =
      .next ((at_ start [0x90, 0x02, 0xA9]).setPC 0x8004) ∧
    stepWith (fun _ => some ⟨.bcc, .absolute, 3⟩) (at_ (start.setP 0x01) [0x90, 0x02, 0xA9]) =
      .next ((at_ (start.setP 0x01) [0x90, 0x02, 0xA9]).setPC 0x8003) := ⟨rfl, rfl, rfl⟩

/-! ### One step: ADC, AND, ORA, EOR -/

/-- V1.15: -128 + -128 gives Z, V and C. -/
theorem test_adc_overflow : (after (at_ (start.setA 0x80) [0x69, 0x80])).p = 0x43 ∧
    (after (at_ (start.setA 0x80) [0x69, 0x80])).a = 0x00 := by decide
/-- V1.12: operand 0xFF with Carry in gives Carry out (conflict C1). -/
theorem test_adc_carry : (after (at_ ((start.setA 0x12).setP 0x01) [0x69, 0xFF])).p = 0x01 ∧
    (after (at_ ((start.setA 0x12).setP 0x01) [0x69, 0xFF])).a = 0x12 := by decide
/-- V2.1: zero result, C and V kept. -/
theorem test_and : (after (at_ ((start.setA 0xF0).setP 0xC1) [0x29, 0x0F])).p = 0x43 ∧
    (after (at_ ((start.setA 0xF0).setP 0xC1) [0x29, 0x0F])).a = 0x00 := by decide
/-- V2.10: base 0x00FF plus Y is 0x0100. -/
theorem test_ora_indirectY :
    (after (at_ (put (put ((start.setA 0x01).setY 0x01) 0x0020 0xFF) 0x0100 0x40) [0x11, 0x20])).a = 0x41 := by decide
/-- V2.11: the zero-page index wraps. -/
theorem test_eor_zeroPageX :
    (after (at_ (put ((start.setA 0xAA).setX 0x90) 0x0010 0x0A) [0x55, 0x80])).a = 0xA0 := by decide

/-! ### Shifts and rotates -/

/-- V3.2: Carry in ignored, Carry cleared. -/
theorem test_asl : (after (at_ ((start.setA 0x40).setP 0x01) [0x0A])).a = 0x80 ∧
    (after (at_ ((start.setA 0x40).setP 0x01) [0x0A])).p = 0x80 := by decide
/-- V3.12: the memory form leaves A alone. -/
theorem test_asl_memory : (after (at_ (put (start.setA 0x77) 0x0010 0xC1) [0x06, 0x10])).read 0x0010 = 0x82 ∧
    (after (at_ (put (start.setA 0x77) 0x0010 0xC1) [0x06, 0x10])).a = 0x77 := by decide
/-- V3.5: Negative is always cleared. -/
theorem test_lsr : (after (at_ ((start.setA 0xFF).setP 0x80) [0x4A])).a = 0x7F ∧
    (after (at_ ((start.setA 0xFF).setP 0x80) [0x4A])).p = 0x01 := by decide
/-- V3.6: Carry in to bit 0, bit 7 to Carry. -/
theorem test_rol : (after (at_ ((start.setA 0x80).setP 0x01) [0x2A])).a = 0x01 ∧
    (after (at_ ((start.setA 0x80).setP 0x01) [0x2A])).p = 0x01 := by decide
/-- V3.9: Carry in to bit 7, bit 0 to Carry. -/
theorem test_ror : (after (at_ ((start.setA 0x01).setP 0x01) [0x6A])).a = 0x80 ∧
    (after (at_ ((start.setA 0x01).setP 0x01) [0x6A])).p = 0x81 := by decide
/-- V3.15: AbsoluteX across a page. -/
theorem test_ror_memory :
    (after (at_ ((start.setX 0x10).setP 0x01) [0x7E, 0xF0, 0x12])).read 0x1300 = 0x80 := by decide

/-! ### Branches -/

/-- V4.1, V4.2. -/
theorem test_bcc : (after (at_ start [0x90, 0x02])).pc = 0x8004 ∧
    (after (at_ (start.setP 0x01) [0x90, 0x02])).pc = 0x8002 := by decide
/-- The corner case of R132: 0x80 goes back 126 from the opcode. -/
theorem test_bcs : (after (at_ ((start.setP 0x01).setPC 0x8010) [0xB0, 0x80])).pc = 0x7F92 := by decide
/-- V4.22: the target wraps below 0x0000. -/
theorem test_beq_wraps : (after (at_ ((start.setP 0x02).setPC 0x0005) [0xF0, 0xF0])).pc = 0xFFF7 := by decide
/-- V4.9, and a branch to itself (R134). -/
theorem test_bmi : (after (at_ (start.setP 0x80) [0x30, 0x05])).pc = 0x8007 ∧
    (after (at_ (start.setP 0x80) [0x30, 0xFE])).pc = 0x8000 := by decide
/-- V4.21: a displacement of zero falls through. -/
theorem test_bne_zero : (after (at_ start [0xD0, 0x00])).pc = 0x8002 := by decide
/-- The corner case of R136: the target wraps above 0xFFFF. -/
theorem test_bpl_wraps : (after (at_ (start.setPC 0xFFF0) [0x10, 0x7F])).pc = 0x0071 := by decide
/-- V4.15, V4.16. -/
theorem test_bvc : (after (at_ start [0x50, 0x05])).pc = 0x8007 ∧
    (after (at_ (start.setP 0x40) [0x50, 0x05])).pc = 0x8002 := by decide
/-- V4.13, V4.14. -/
theorem test_bvs : (after (at_ (start.setP 0x40) [0x70, 0x05])).pc = 0x8007 ∧
    (after (at_ start [0x70, 0x05])).pc = 0x8002 := by decide

/-! ### BIT and the compares -/

/-- V5.1: N and V come from the memory byte. -/
theorem test_bit : (after (at_ (put (start.setA 0x0F) 0x0010 0xF0) [0x24, 0x10])).p = 0xC2 := by decide
/-- V5.6, V5.8: less; and V is never written. -/
theorem test_cmp : (after (at_ (start.setA 0x10) [0xC9, 0x20])).p = 0x80 ∧
    (after (at_ ((start.setA 0x80).setP 0x40) [0xC9, 0x01])).p = 0x41 := by decide
/-- V5.12: A is not involved. -/
theorem test_cpx : (after (at_ ((start.setA 0x99).setX 0x05) [0xE0, 0x05])).p = 0x03 := by decide
/-- V5.15. -/
theorem test_cpy : (after (at_ (put (start.setY 0x7F) 0x1234 0x80) [0xCC, 0x34, 0x12])).p = 0x80 := by decide

/-! ### Increment, decrement, load, transfer -/

/-- V6.9: wraps to 0xFF. -/
theorem test_dec : (after (at_ start [0xC6, 0x10])).read 0x0010 = 0xFF ∧ (after (at_ start [0xC6, 0x10])).p = 0x80 := by
  decide
/-- V6.7: wraps to zero, no Carry. -/
theorem test_inc : (after (at_ (put start 0x0010 0xFF) [0xE6, 0x10])).read 0x0010 = 0x00 ∧
    (after (at_ (put start 0x0010 0xFF) [0xE6, 0x10])).p = 0x02 := by decide
/-- V6.2. -/
theorem test_dex : (after (at_ (start.setP 0x02) [0xCA])).x = 0xFF ∧ (after (at_ (start.setP 0x02) [0xCA])).p = 0x80 := by
  decide
/-- V6.5: C and V kept. -/
theorem test_dey : (after (at_ ((start.setY 0x01).setP 0x41) [0x88])).p = 0x43 := by decide
/-- V6.1. -/
theorem test_inx : (after (at_ ((start.setX 0xFF).setP 0x80) [0xE8])).x = 0x00 ∧
    (after (at_ ((start.setX 0xFF).setP 0x80) [0xE8])).p = 0x02 := by decide
/-- V6.4. -/
theorem test_iny : (after (at_ (start.setY 0xFF) [0xC8])).y = 0x00 ∧ (after (at_ (start.setY 0xFF) [0xC8])).p = 0x02 := by
  decide
/-- V6.19: an IndirectX pointer at 0x00FF takes its high byte from 0x0100 (decision D10). -/
theorem test_lda_indirectX :
    (after (at_ (put (put (put (put (put (start.setX 0x01) 0x0000 0x56) 0x00FF 0x34) 0x0100 0x12) 0x1234 0x77) 0x5634 0x88)
      [0xA1, 0xFE])).a = 0x77 := by decide
/-- V6.17: AbsoluteX wraps to 0x0001. -/
theorem test_lda_absoluteX :
    (after (at_ (put (start.setX 0x02) 0x0001 0x42) [0xBD, 0xFF, 0xFF])).a = 0x42 := by decide
/-- V6.24: ZeroPageY wraps. -/
theorem test_ldx : (after (at_ (put (start.setY 0xF5) 0x0005 0x09) [0xB6, 0x10])).x = 0x09 := by decide
/-- V6.27. -/
theorem test_ldy : (after (at_ (put (start.setX 0x01) 0x0011 0x80) [0xB4, 0x10])).y = 0x80 := by decide
/-- V6.29. -/
theorem test_tax : (after (at_ ((start.setA 0x80).setX 0x01) [0xAA])).x = 0x80 ∧
    (after (at_ ((start.setA 0x80).setX 0x01) [0xAA])).p = 0x80 := by decide
/-- V6.31. -/
theorem test_tay : (after (at_ (((start.setA 0x7F).setY 0xFF).setP 0x80) [0xA8])).y = 0x7F ∧
    (after (at_ (((start.setA 0x7F).setY 0xFF).setP 0x80) [0xA8])).p = 0x00 := by decide

/-! ### Jumps and the stack -/

/-- V7.3: the high byte comes from 0x1100, not 0x1000 (decision D10). -/
theorem test_jmp_indirect :
    (after (at_ (put (put (put start 0x1000 0x56) 0x10FF 0x34) 0x1100 0x12) [0x6C, 0xFF, 0x10])).pc = 0x1234 := by decide
/-- V7.1. -/
theorem test_jmp : (after (at_ (start.setP 0xC3) [0x4C, 0x34, 0x12])).pc = 0x1234 := by decide
/-- V7.6: pushes 0x8002, high byte at 0x01FF. -/
theorem test_jsr : (after (at_ start [0x20, 0x00, 0x90])).read 0x01FF = 0x80 ∧
    (after (at_ start [0x20, 0x00, 0x90])).read 0x01FE = 0x02 ∧
    (after (at_ start [0x20, 0x00, 0x90])).sp = 0xFD := by decide
/-- V7.7: SP wraps between the two pushes. -/
theorem test_jsr_wraps : (after (at_ ((start.setSP 0x00).setPC 0x12FE) [0x20, 0x34, 0x12])).read 0x0100 = 0x13 ∧
    (after (at_ ((start.setSP 0x00).setPC 0x12FE) [0x20, 0x34, 0x12])).sp = 0xFE := by decide
/-- V8.2: SP wraps to 0xFF. -/
theorem test_pha : (after (at_ ((start.setA 0x42).setSP 0x00) [0x48])).read 0x0100 = 0x42 ∧
    (after (at_ ((start.setA 0x42).setSP 0x00) [0x48])).sp = 0xFF := by decide
/-- V8.4: bits 4 and 5 are pushed as stored. -/
theorem test_php : (after (at_ (start.setP 0xC3) [0x08])).read 0x01FF = 0xC3 := by decide
/-- V8.7: SP wraps to 0x00 and the slot read is zeroed. -/
theorem test_pla : (after (at_ (put (start.setA 0x11) 0x0100 0x7F) [0x68])).a = 0x7F ∧
    (after (at_ (put (start.setA 0x11) 0x0100 0x7F) [0x68])).read 0x0100 = 0x00 := by decide
/-- V8.8: a raw restore, bits 4 and 5 included. -/
theorem test_plp : (after (at_ (put ((start.setP 0x30).setSP 0xFE) 0x01FF 0xC3) [0x28])).p = 0xC3 := by decide
/-- V8.11: SP wraps between the pops; no adjustment of PC. -/
theorem test_rti :
    (after (at_ (put (put (put ((start.setP 0x30).setSP 0xFE) 0x01FF 0x01) 0x0100 0x02) 0x0101 0x03) [0x40])).pc = 0x0302 ∧
    (after (at_ (put (put (put ((start.setP 0x30).setSP 0xFE) 0x01FF 0x01) 0x0100 0x02) 0x0101 0x03) [0x40])).p = 0x01 := by
  decide
/-- V8.10: the three slots are zeroed. -/
theorem test_rti_zeroes :
    (after (at_ (put (put (put (start.setSP 0xFC) 0x01FD 0xB1) 0x01FE 0x34) 0x01FF 0x12) [0x40])).mem = [(0x8000, 0x40)] := by
  decide

/-! ### Flags, NOP, BRK -/

/-- V9.1, V9.4, V9.5, V9.6. -/
theorem test_clears : (after (at_ (start.setP 0xFF) [0x18])).p = 0xFE ∧ (after (at_ (start.setP 0xFF) [0xD8])).p = 0xF7 ∧
    (after (at_ (start.setP 0xFF) [0x58])).p = 0xFB ∧ (after (at_ (start.setP 0xFF) [0xB8])).p = 0xBF := by decide
/-- V9.7. -/
theorem test_nop : after (at_ (start.setP 0xA5) [0xEA]) = (at_ (start.setP 0xA5) [0xEA]).setPC 0x8001 := by decide
/-- V9.9: nothing is pushed and no vector is read. -/
theorem test_brk : after (at_ ((start.setP 0xFF).setSP 0x10) [0x00]) =
    { start with p := 0xFF, sp := 0x10, pc := 0x8001, run := .halted } := by decide
/-- V9.10: PC wraps. -/
theorem test_brk_wraps : (after (at_ (start.setPC 0xFFFF) [0x00])).pc = 0x0000 := by decide

/-! ### Fatal conditions and stopped cores -/

/-- V10.1: the whole end state. -/
theorem test_unknown : after (at_ ((start.setA 0x11).setP 0x30) [0x02]) =
    { at_ ((start.setA 0x11).setP 0x30) [0x02] with run := .faulted, fault := some ⟨.unknownOpcode, 0x02, 0x8000⟩ } := by
  decide
/-- V10.5 to V10.8. -/
theorem test_unimplemented_operand : (after (at_ start [0xE9, 0x01])).fault = some ⟨.notImplemented, 0xE9, 0x8000⟩ ∧
    (after (at_ (start.setA 0x42) [0x85, 0x10])).read 0x0010 = 0x00 ∧
    (after (at_ (start.setX 0x42) [0x8E, 0x34, 0x12])).fault = some ⟨.notImplemented, 0x8E, 0x8000⟩ ∧
    (after (at_ (start.setY 0x42) [0x94, 0x10])).fault = some ⟨.notImplemented, 0x94, 0x8000⟩ := by decide
/-- V10.9 to V10.15. -/
theorem test_unimplemented_implied : (after (at_ start [0x38])).fault = some ⟨.notImplemented, 0x38, 0x8000⟩ ∧
    (after (at_ start [0xF8])).fault = some ⟨.notImplemented, 0xF8, 0x8000⟩ ∧
    (after (at_ start [0x78])).fault = some ⟨.notImplemented, 0x78, 0x8000⟩ ∧
    (after (at_ start [0xBA])).fault = some ⟨.notImplemented, 0xBA, 0x8000⟩ ∧
    (after (at_ (start.setX 0x42) [0x8A])).a = 0x00 ∧ (after (at_ (start.setX 0x42) [0x9A])).sp = 0xFF ∧
    (after (at_ (start.setY 0x42) [0x98])).a = 0x00 := by decide
/-- V10.16: the stack and PC are untouched. -/
theorem test_rts : (after (at_ (put (put (start.setSP 0xFD) 0x01FE 0x02) 0x01FF 0x80) [0x60])).sp = 0xFD ∧
    (after (at_ (put (put (start.setSP 0xFD) 0x01FE 0x02) 0x01FF 0x80) [0x60])).pc = 0x8000 := by decide
/-- V10.17: a step on a HALTED core has no effect. -/
theorem test_halted_step : after ((at_ start [0xA9, 0x05]).setRun .halted) = (at_ start [0xA9, 0x05]).setRun .halted := by
  decide

/-! ### Power-on, reset, loader -/

/-- V11.9: the reset reads the vector, whatever it holds. -/
theorem test_reset_true : ((put (put (State.powerOn []) 0xFFFC 0x34) 0xFFFD 0x12).resetEvent true).pc = 0x1234 ∧
    ((put (put (State.powerOn []) 0xFFFC 0x34) 0xFFFD 0x12).resetEvent true).p = 0x00 := by decide
/-- V11.12: without a reset the first step meets the BRK at 0x0000. -/
theorem test_no_reset : (after (State.powerOn [(0x8000, 0xA9), (0x8001, 0x05)])).run = .halted ∧
    (after (State.powerOn [(0x8000, 0xA9), (0x8001, 0x05)])).pc = 0x0001 := by decide
/-- V11.1 to V11.3: the boot sequence of the image `A9 80 48 00`. -/
theorem test_boot : boot [] [0xA9, 0x80, 0x48, 0x00] false = .ok { State.powerOn
    [(0x8000, 0xA9), (0x8001, 0x80), (0x8002, 0x48), (0xFFFD, 0x80)] with pc := 0x8000 } := rfl

/-! ### Witnesses: for every statement with hypotheses, states and operands that meet them all, at boundary values -/

theorem witness_DecodeReadsBackEncode : (Instr.adc (.absoluteX 0xFFFF)).wellFormed = true ∧
    (Instr.jsr 0xFFFF).wellFormed = true ∧ (Instr.bne 0x80).wellFormed = true ∧ Instr.brk.wellFormed = true ∧
    (Instr.sta (.indirectY 0xFF)).wellFormed = true := by decide

theorem witness_DecodedInstructionEncodesBack : decode [0x7D, 0xFF, 0xFF, 0x02] = .ok (.adc (.absoluteX 0xFFFF), [0x02]) ∧
    decode [0x60] = .ok (.rts, []) := ⟨rfl, rfl⟩

/-- The instruction's bytes may wrap at the top of the address space. -/
theorem witness_StepRunsTheDecodedInstruction : ∃ s : State, s.run = .running ∧ s.pc = 0xFFFF ∧
    decode [s.read s.pc, s.read (s.pc + 1), s.read (s.pc + 2)] = .ok (.jsr 0x1234, []) :=
  ⟨at_ (start.setPC 0xFFFF) [0x20, 0x34, 0x12], rfl, rfl, rfl⟩

theorem witness_StoppedCoreIgnoresStep : (start.setRun .halted).run ≠ .running ∧
    (start.raise .unknownOpcode 0x02 0x8000).run ≠ .running := by decide

theorem witness_UnknownOpcodeStops : ∃ s : State, s.run = .running ∧ optable (s.read s.pc) = none :=
  ⟨at_ start [0xFF], by decide⟩

theorem witness_UnimplementedMnemonicsRaise : Instr.sta (.indirectY 0xFF) ∈
    [Instr.sbc (.indirectY 0xFF), .sta (.indirectY 0xFF), .stx (.indirectY 0xFF), .sty (.indirectY 0xFF),
      .sec, .sed, .sei, .tsx, .txa, .txs, .tya, .rts] := by decide

theorem witness_UnimplementedByteStops : ∃ s : State, s.run = .running ∧
    optable (s.read s.pc) = some ⟨.sta, .zeroPage, 2⟩ ∧ Mnemonic.sta.unimplemented = true :=
  ⟨at_ start [0x85, 0x10], by decide⟩

theorem witness_FatalConditionChangesNothingElse : ∃ s t : State, s.run = .running ∧ step s = .next t ∧ t.run = .faulted :=
  ⟨at_ start [0x60], (at_ start [0x60]).raise .notImplemented 0x60 0x8000, rfl, rfl, rfl⟩

/-- A branch not taken for its flag, one not taken for its zero displacement, BRK, and an instruction at 0xFFFF. -/
theorem witness_PcAdvancesByLength : ∀ p ∈ [(Instr.bne 0x10, start.setP 0x02), (.bne 0x00, start), (.brk, start),
      (.adc (.absolute 0x1234), start.setPC 0xFFFF)],
    p.1.wellFormed = true ∧ p.1.mnemonic.unimplemented = false ∧ p.1.setsPC p.2 = false := by decide

theorem witness_ImpliedOperandIsMisuse : Instr.jmp .implied ∈
    [Instr.adc .implied, .and .implied, .ora .implied, .eor .implied, .bit .implied, .cmp .implied, .cpx .implied,
      .cpy .implied, .dec .implied, .inc .implied, .lda .implied, .ldx .implied, .ldy .implied, .jmp .implied] := by
  decide

/-- One instruction for each clause. -/
theorem witness_RunStateChangesOnlyAsStated : Instr.brk.wellFormed = true ∧
    ((Instr.sbc (.immediate 0x01)).wellFormed = true ∧ (Instr.sbc (.immediate 0x01)).mnemonic.unimplemented = true) ∧
    ((Instr.asl .implied).wellFormed = true ∧ Instr.asl .implied ≠ .brk ∧
      (Instr.asl .implied).mnemonic.unimplemented = false) := by decide

/-- A faulted state with its record, and memory listed. -/
theorem witness_faulted_Inv : ((at_ start [0x02]).raise .unknownOpcode 0x02 0x8000).Inv where
  memory_canonical := by decide
  record_iff_faulted := by decide
  record_sound := by
    intro r hr
    cases hr
    show optable 0x02 = none
    decide

/-- A running state about to fault, its step, and its invariant. -/
theorem witness_StepKeepsInvariant : (at_ start [0x60]).Inv ∧
    step (at_ start [0x60]) = .next ((at_ start [0x60]).raise .notImplemented 0x60 0x8000) :=
  ⟨⟨by decide, by decide, fun _ hr => by cases hr⟩, rfl⟩

theorem witness_HostEventsKeepInvariant : Memory.wf [(0x0000, 0x01), (0xFFFF, 0xFF)] ∧
    ((at_ start [0x02]).raise .unknownOpcode 0x02 0x8000).Inv ∧
    (∃ t, loadProgram [0xA9, 0x05, 0x00] start = .ok t) :=
  ⟨by decide, witness_faulted_Inv, ⟨_, rfl⟩⟩

theorem witness_FlagsWrittenOnlyAsTabled : Flag.v ∉ (Instr.cmp (.immediate 0x10)).mnemonic.flagsWritten ∧
    Flag.c ∉ (Instr.inc (.zeroPage 0x10)).mnemonic.flagsWritten ∧ Flag.u ∉ (Instr.adc (.immediate 0x10)).mnemonic.flagsWritten := by
  decide

theorem witness_StorageFlagsSetOnlyByPull : Instr.cld ≠ .plp ∧ Instr.cld ≠ .rti ∧ (start.setP 0xFF).flag .d = true := by
  decide

theorem witness_RegistersWrittenOnlyAsTabled : Reg.a ∉ (Instr.rol (.zeroPage 0x10)).regsWritten ∧
    Reg.x ∉ (Instr.rol .implied).regsWritten ∧ Reg.sp ∉ (Instr.jmp (.absolute 0x1234)).regsWritten := by decide

/-- The bytes beside a read-modify-write's, and beside a wrapping JSR's two. -/
theorem witness_MemoryWrittenOnlyAsTabled :
    (0x0011 : Addr) ∉ (Instr.inc (.zeroPage 0x10)).storesTo start ∧
    (0x0200 : Addr) ∉ (Instr.jsr 0x1234).storesTo (start.setSP 0x00) ∧
    (Instr.jsr 0x1234).storesTo (start.setSP 0x00) = [0x0100, 0x01FF] := by decide

theorem witness_StorageFlagsHaveNoEffect : Instr.adc (.immediate 0x01) ≠ .php ∧
    ∀ f ∈ [Flag.c, .z, .v, .n], getFlag f 0x3C = start.flag f := by decide

theorem witness_AdcAddsWithCarry : (Instr.adc (.indirectY 0xFF)).wellFormed = true ∧
    (Instr.adc (.immediate 0xFF)).wellFormed = true := by decide

theorem witness_LogicCombinesAWithOperand :
    (Instr.ora, (fun a m : Byte => a ||| m), Mode.eight.zip [(0x09 : Byte), 0x05, 0x15, 0x0D, 0x1D, 0x19, 0x01, 0x11]) ∈
      [(Instr.and, (fun a m : Byte => a &&& m), Mode.eight.zip [0x29, 0x25, 0x35, 0x2D, 0x3D, 0x39, 0x21, 0x31]),
       (.ora, (fun a m : Byte => a ||| m), Mode.eight.zip [0x09, 0x05, 0x15, 0x0D, 0x1D, 0x19, 0x01, 0x11])] ∧
    ((Operand.indirectY 0xFF).mode, (0x11 : Byte)) ∈
      Mode.eight.zip [0x09, 0x05, 0x15, 0x0D, 0x1D, 0x19, 0x01, 0x11] := ⟨by simp, by decide⟩

theorem witness_ShiftOfAccumulator : Instr.ror ∈ [Instr.asl, .lsr, .rol, .ror] := by simp

theorem witness_ShiftOfMemory : Instr.ror ∈ [Instr.asl, .lsr, .rol, .ror] ∧
    (Instr.ror (.absoluteX 0xFFFF)).wellFormed = true ∧ Operand.absoluteX 0xFFFF ≠ .implied :=
  ⟨by simp, by decide, by decide⟩

theorem witness_BranchGoesToTarget : (Instr.bvc, Flag.v, false) ∈
    [(Instr.bcc, Flag.c, false), (.bcs, .c, true), (.beq, .z, true), (.bmi, .n, true),
      (.bne, .z, false), (.bpl, .n, false), (.bvc, .v, false), (.bvs, .v, true)] := by simp

theorem witness_BitTestsOperand :
    ((Operand.absolute 0xFFFF).mode, (0x2C : Byte)) ∈ [(Mode.zeroPage, (0x24 : Byte)), (.absolute, 0x2C)] := by decide

theorem witness_CompareSetsFlags : ((Operand.indirectX 0xFF).mode, (0xC1 : Byte)) ∈
      Mode.eight.zip [0xC9, 0xC5, 0xD5, 0xCD, 0xDD, 0xD9, 0xC1, 0xD1] ∧
    ((Operand.absolute 0xFFFF).mode, (0xEC : Byte)) ∈ [(Mode.immediate, (0xE0 : Byte)), (.zeroPage, 0xE4), (.absolute, 0xEC)] ∧
    ((Operand.immediate 0x00).mode, (0xC0 : Byte)) ∈ [(Mode.immediate, (0xC0 : Byte)), (.zeroPage, 0xC4), (.absolute, 0xCC)] := by
  decide

theorem witness_IncDecOfMemory : (Instr.dec, 255) ∈ [(Instr.inc, 1), (.dec, 255)] ∧
    (Instr.dec (.absoluteX 0xFFFF)).wellFormed = true := ⟨by simp, by decide⟩

theorem witness_IncDecOfIndex : (Instr.iny, (0xC8 : Byte), Reg.y, 1) ∈
    [(Instr.dex, (0xCA : Byte), Reg.x, 255), (.dey, 0x88, .y, 255), (.inx, 0xE8, .x, 1), (.iny, 0xC8, .y, 1)] := by decide

theorem witness_LoadTakesOperand :
    ((Operand.zeroPageY 0xFF).mode, (0xB6 : Byte)) ∈
      [(Mode.immediate, (0xA2 : Byte)), (.zeroPage, 0xA6), (.zeroPageY, 0xB6), (.absolute, 0xAE), (.absoluteY, 0xBE)] ∧
    ((Operand.absoluteX 0xFFFF).mode, (0xBC : Byte)) ∈
      [(Mode.immediate, (0xA0 : Byte)), (.zeroPage, 0xA4), (.zeroPageX, 0xB4), (.absolute, 0xAC), (.absoluteX, 0xBC)] := by
  decide

theorem witness_TransferCopiesA : (Instr.tay, (0xA8 : Byte), Reg.y) ∈ [(Instr.tax, (0xAA : Byte), Reg.x), (.tay, 0xA8, .y)] := by
  decide

theorem witness_PushStoresByte : (Instr.php, start.p) ∈ [(Instr.pha, start.a), (.php, start.p)] := by decide

theorem witness_ClearClearsOneFlag : (Instr.clv, (0xB8 : Byte), Flag.v) ∈
    [(Instr.clc, (0x18 : Byte), Flag.c), (.cld, 0xD8, .d), (.cli, 0x58, .i), (.clv, 0xB8, .v)] := by decide

/-- One fetched instruction for each clause, the index sums wrapping in the zero page. -/
theorem witness_DirectAddresses :
    (fetchDecode (at_ start [0xA9, 0x05]) = .ok (.lda (.immediate 0x05)) ∧
      effectiveAddress (.immediate 0x05) (at_ start [0xA9, 0x05]).inHandler = some 0x8001) ∧
    (fetchDecode (at_ start [0xA5, 0xFF]) = .ok (.lda (.zeroPage 0xFF)) ∧
      effectiveAddress (.zeroPage 0xFF) (at_ start [0xA5, 0xFF]).inHandler = some 0x00FF) ∧
    (fetchDecode (at_ (start.setX 0x20) [0xB5, 0xF0]) = .ok (.lda (.zeroPageX 0xF0)) ∧
      effectiveAddress (.zeroPageX 0xF0) (at_ (start.setX 0x20) [0xB5, 0xF0]).inHandler = some 0x0010) ∧
    (fetchDecode (at_ (start.setY 0x02) [0xB6, 0xFF]) = .ok (.ldx (.zeroPageY 0xFF)) ∧
      effectiveAddress (.zeroPageY 0xFF) (at_ (start.setY 0x02) [0xB6, 0xFF]).inHandler = some 0x0001) ∧
    (fetchDecode (at_ start [0xAD, 0x34, 0x12]) = .ok (.lda (.absolute 0x1234)) ∧
      effectiveAddress (.absolute 0x1234) (at_ start [0xAD, 0x34, 0x12]).inHandler = some 0x1234) :=
  ⟨⟨rfl, rfl⟩, ⟨rfl, rfl⟩, ⟨rfl, rfl⟩, ⟨rfl, rfl⟩, ⟨rfl, rfl⟩⟩

/-- The examples of R92 to R96, with the pointers of V7.4, V6.19 and V6.21 at the ends of their ranges. -/
theorem witness_IndexedAndIndirectAddresses :
    (fetchDecode (at_ (start.setX 0x20) [0xBD, 0xF0, 0xFF]) = .ok (.lda (.absoluteX 0xFFF0)) ∧
      effectiveAddress (.absoluteX 0xFFF0) (at_ (start.setX 0x20) [0xBD, 0xF0, 0xFF]).inHandler = some 0x0010) ∧
    (fetchDecode (at_ (start.setY 0x01) [0xB9, 0xFF, 0x80]) = .ok (.lda (.absoluteY 0x80FF)) ∧
      effectiveAddress (.absoluteY 0x80FF) (at_ (start.setY 0x01) [0xB9, 0xFF, 0x80]).inHandler = some 0x8100) ∧
    (fetchDecode (at_ (put (put start 0xFFFF 0x34) 0x0000 0x12) [0x6C, 0xFF, 0xFF]) = .ok (.jmp (.indirect 0xFFFF)) ∧
      effectiveAddress (.indirect 0xFFFF) (at_ (put (put start 0xFFFF 0x34) 0x0000 0x12) [0x6C, 0xFF, 0xFF]).inHandler =
        some 0x1234) ∧
    (fetchDecode (at_ (put (put (start.setX 0x01) 0x00FF 0x34) 0x0100 0x12) [0xA1, 0xFE]) = .ok (.lda (.indirectX 0xFE)) ∧
      effectiveAddress (.indirectX 0xFE)
        (at_ (put (put (start.setX 0x01) 0x00FF 0x34) 0x0100 0x12) [0xA1, 0xFE]).inHandler = some 0x1234) ∧
    (fetchDecode (at_ (put (put (start.setY 0x01) 0x00FF 0xFF) 0x0100 0x20) [0xB1, 0xFF]) = .ok (.lda (.indirectY 0xFF)) ∧
      effectiveAddress (.indirectY 0xFF)
        (at_ (put (put (start.setY 0x01) 0x00FF 0xFF) 0x0100 0x20) [0xB1, 0xFF]).inHandler = some 0x2100) :=
  ⟨⟨rfl, rfl⟩, ⟨rfl, rfl⟩, ⟨rfl, rfl⟩, ⟨rfl, rfl⟩, ⟨rfl, rfl⟩⟩

theorem witness_OperandIsByteAtEffectiveAddress : fetchDecode (at_ start [0xA9, 0x05]) = .ok (.lda (.immediate 0x05)) := rfl

theorem witness_WordAccessIsLittleEndian : (0x0000 : Addr).toNat = ((0xFFFF : Addr).toNat + 1) % 65536 ∧
    (0x0100 : Addr).toNat = ((0x00FF : Addr).toNat + 1) % 65536 := by decide

theorem witness_SetZnWritesTwoFlags : Flag.c ≠ .z ∧ Flag.c ≠ .n := by decide

theorem witness_FaultedSurvivesReset : (start.raise .unknownOpcode 0x02 0x8000).run = .faulted ∧
    (start.setRun .halted).run = .halted := by decide

theorem witness_LoaderPlacesImage : (List.replicate 0x8000 (0xEA : Byte)).length ≤ 0x8000 :=
  List.length_replicate.le

theorem witness_LoaderRefusesLongImage : 0x8000 < (List.replicate 0x8001 (0xEA : Byte)).length :=
  Nat.lt_of_lt_of_eq (by decide) List.length_replicate.symm

theorem witness_BootStartsAtOrigin : ([] : List Byte).length ≤ 0x8000 ∧ [(0xA9 : Byte), 0x05, 0x00].length ≤ 0x8000 := by
  decide

theorem witness_AnyTableFollowsTheStep : (at_ start [0xE8, 0x10]).run = .running ∧
    (Descriptor.instr ⟨.inx, .zeroPage, 2⟩ 0x10 0x00).setsPC (at_ start [0xE8, 0x10]) = false := by decide

end Sys2Proof.Tests
end

section
/-! PROOFS of the statements of spec/10_state.md: the status byte P as the sum of its flags, and its power-on value. -/

namespace Sys2Proof.Machine

/-- A flag of P as a number is the digit of P at the flag's bit (R14). -/
theorem getFlag_toNat (f : Flag) (p : Byte) : (getFlag f p).toNat = p.toNat / 2 ^ f.index % 2 :=
  Nat.toNat_testBit p.toNat f.index

/-- The layout of R14: a byte is the sum of the eight flags at their bits. -/
theorem toNat_eq_sum_getFlag (p : Byte) : p.toNat =
    (getFlag .n p).toNat * 128 + (getFlag .v p).toNat * 64 + (getFlag .u p).toNat * 32 + (getFlag .b p).toNat * 16 +
    (getFlag .d p).toNat * 8 + (getFlag .i p).toNat * 4 + (getFlag .z p).toNat * 2 + (getFlag .c p).toNat := by
  have hp : p.toNat < 256 := p.isLt
  simp only [getFlag_toNat, Flag.index]
  omega

/-- The power-on column of R14: of the eight flags exactly Break and the unused bit are set. -/
theorem powerOn_flag (m : Memory) (f : Flag) : (State.powerOn m).flag f = decide (f = .b ∨ f = .u) := by
  change getFlag f Config.powerOnP = _
  cases f <;> decide

end Sys2Proof.Machine

namespace Sys2Proof.Proofs

/-- Settles O51: P is the sum of its binary digits, one for each flag; the value at power-on is one byte, read flag by
flag. -/
theorem statusByteLayout : Obligations.StatusByteLayout :=
  ⟨fun s => Machine.toNat_eq_sum_getFlag s.p, Machine.powerOn_flag⟩

end Sys2Proof.Proofs
end

section
/-! PROOFS of the statements of spec/20_memory.md: the word accesses of the memory port. -/

namespace Sys2Proof.Machine

/-- A word read as a number: the low byte at the address, the high byte at the next (R44). -/
theorem State.readWord_toNat (s : State) (a : Addr) :
    (s.readWord a).toNat = (s.read (a + 1)).toNat * 256 + (s.read a).toNat :=
  concat_toNat (s.read (a + 1)) (s.read a)

/-- `MemRead` of one byte after a word write (R45). -/
theorem State.read_writeWord (s : State) (a w c : Addr) :
    (s.writeWord a w).read c = if c = a + 1 then highByte w else if c = a then lowByte w else s.read c := by
  rw [State.writeWord, State.read_write, State.read_write]

/-- The low byte of a word written is at the address: the high byte's cell is another one, at the wrap too. -/
@[simp] theorem State.read_writeWord_low (s : State) (a w : Addr) : (s.writeWord a w).read a = lowByte w := by
  have hne : a ≠ a + 1 := left_ne_add.mpr (by decide)
  rw [State.read_writeWord, if_neg hne, if_pos rfl]

/-- The high byte of a word written is at the next address. -/
@[simp] theorem State.read_writeWord_high (s : State) (a w : Addr) :
    (s.writeWord a w).read (a + 1) = highByte w := by
  rw [State.read_writeWord, if_pos rfl]

/-- A word write leaves every other byte. -/
theorem State.read_writeWord_of_ne (s : State) (a w c : Addr) (hlow : c ≠ a) (hhigh : c ≠ a + 1) :
    (s.writeWord a w).read c = s.read c := by
  rw [State.read_writeWord, if_neg hhigh, if_neg hlow]

/-- The word written reads back. -/
@[simp] theorem State.readWord_writeWord (s : State) (a w : Addr) : (s.writeWord a w).readWord a = w := by
  rw [State.readWord, State.read_writeWord_high, State.read_writeWord_low, concat_high_low]

end Sys2Proof.Machine

namespace Sys2Proof.Proofs

open Machine

/-- Settles O49: the next address modulo 65536 is `a + 1`, and the two bytes of a word never share a cell. -/
theorem wordAccessIsLittleEndian : Obligations.WordAccessIsLittleEndian := by
  intro s a w b hb
  obtain rfl : b = a + 1 := BitVec.eq_of_toNat_eq (by rw [hb, BitVec.toNat_add]; rfl)
  refine ⟨s.readWord_toNat a, ?low, ?high, fun c => s.read_writeWord_of_ne a w c, s.readWord_writeWord a w⟩
  case low => rw [State.read_writeWord_low, lowByte_toNat]
  case high => rw [State.read_writeWord_high, highByte_toNat]

end Sys2Proof.Proofs
end

section
/-! PROOFS of the statements of spec/40_step_and_addressing.md: `SetZN`, and the effective addresses of the modes whose
address is in the instruction's own bytes, for an instruction fetched from memory. -/

namespace Sys2Proof.Machine

/-- The operand of a fetched instruction is the one its mode assembles from the two bytes after the opcode (R62). -/
theorem fetchDecode_operand {s : State} {i : Instr} {m : Mode} (h : fetchDecode s = .ok i) (hm : i.operand.mode = m) :
    i.operand = m.assemble (s.read (s.pc + 1)) (s.read (s.pc + 2)) := by
  obtain ⟨d, -, -, -, ho, -, -⟩ := fetchDecode_ok h
  rw [ho, Mode.assemble_mode] at hm
  rw [ho, hm]

/-- The effective address of a fetched instruction, from its mode and the two bytes after the opcode. -/
theorem effectiveAddress_of_fetchDecode {s : State} {i : Instr} {m : Mode} (h : fetchDecode s = .ok i)
    (hm : i.operand.mode = m) (t : State) :
    effectiveAddress i.operand t = effectiveAddress (m.assemble (s.read (s.pc + 1)) (s.read (s.pc + 2))) t :=
  congrArg (effectiveAddress · t) (fetchDecode_operand h hm)

/-- The word after the opcode is that of the two operand bytes, where PC wraps too (R91). -/
theorem State.readWord_operand (s : State) :
    s.readWord (s.pc + 1) = concat (s.read (s.pc + 2)) (s.read (s.pc + 1)) := by
  have hnext : s.pc + 1 + 1 = s.pc + 2 := BitVec.add_assoc s.pc 1 1
  rw [State.readWord, hnext]

/-- `zext_16` keeps the number (R7). -/
@[simp] theorem zext_toNat (v : Byte) : (zext v).toNat = v.toNat := BitVec.toNat_setWidth_of_le (by decide)

/-- An index is added in the zero page: the sum is modulo 256 (R89, R90). -/
theorem zext_add_toNat (b v : Byte) : (zext (b + v)).toNat = (b.toNat + v.toNat) % 256 := by
  rw [zext_toNat, BitVec.toNat_add]

end Sys2Proof.Machine

namespace Sys2Proof.Proofs

open Machine

/-- Settles O50: Z is tested against 0 and N is bit 7, and neither write reaches another flag. -/
theorem setZnWritesTwoFlags : Obligations.SetZnWritesTwoFlags := by
  intro v p
  refine ⟨?zero, ?negative, fun f => getFlag_setZN_of_ne f v p⟩
  case zero =>
    rw [getFlag_setZN_z, decide_eq_true_iff]
    exact BitVec.toNat_inj.symm
  case negative => rw [getFlag_setZN_n, BitVec.msb_eq_getLsbD_last]

/-- Settles O46: the mode fixes the operand the fetch assembles, and each clause reads the address of that operand. -/
theorem directAddresses : Obligations.DirectAddresses := by
  intro s i h b hb a ha
  subst hb
  have address {m : Mode} (hm : i.operand.mode = m) :
      effectiveAddress (m.assemble (s.read (s.pc + 1)) (s.read (s.pc + 2))) s.inHandler = some a :=
    (effectiveAddress_of_fetchDecode h hm _).symm.trans ha
  refine ⟨fun hm => ⟨?immediate, ?datum⟩, fun hm => ?zeroPage, fun hm => ?zeroPageX, fun hm => ?zeroPageY,
    fun hm => ?absolute⟩
  case immediate => exact (Option.some.inj (address hm)).symm
  case datum =>
    rw [fetchDecode_operand h hm]
    rfl
  case zeroPage =>
    obtain rfl : zext (s.read (s.pc + 1)) = a := Option.some.inj (address hm)
    exact zext_toNat _
  case zeroPageX =>
    obtain rfl : zext (s.read (s.pc + 1) + s.x) = a := Option.some.inj (address hm)
    exact zext_add_toNat _ _
  case zeroPageY =>
    obtain rfl : zext (s.read (s.pc + 1) + s.y) = a := Option.some.inj (address hm)
    exact zext_add_toNat _ _
  case absolute =>
    obtain rfl : concat (s.read (s.pc + 2)) (s.read (s.pc + 1)) = a := Option.some.inj (address hm)
    exact (State.readWord_operand s).symm

end Sys2Proof.Proofs
end

section
/-! PROOFS of the statements of spec/41_adc_logic.md: an instruction that reads a memory operand into A, and the
bytes of an instruction from the by-mnemonic table. -/

namespace Sys2Proof

/-- A row of the by-mnemonic table gives the bytes of its instructions: two rows of a mnemonic never share a mode
(R64). -/
theorem encode_of_mem_opcodes {i : Instr} {opc : Byte} (h : (i.operand.mode, opc) ∈ i.mnemonic.opcodes) :
    encode i = some (opc :: i.operand.bytes) := by
  obtain ⟨-, -, hopc⟩ := optable_entry opc _ (opcodes_entry i.mnemonic _ h)
  rw [encode, hopc]
  rfl

/-- PC past the opcode and then past the operand bytes is PC past the instruction, at the wrap too (R84). -/
theorem Operand.pc_past (o : Operand) (pc : Addr) :
    pc + 1 + BitVec.ofNat 16 (o.length - 1) = pc + BitVec.ofNat 16 o.length := by
  rw [← o.bytes_length, Nat.add_sub_cancel, BitVec.ofNat_add, BitVec.add_assoc, BitVec.add_comm 1]
  rfl

/-- The eight modes of R110 to R113 do not include Implied. -/
theorem Operand.ne_implied_of_mem_eight {o : Operand} (h : o.mode ∈ Mode.eight) : o ≠ .implied := by
  rintro rfl
  exact absurd h (by decide)

end Sys2Proof

namespace Sys2Proof.Machine

/-- An operand-reading instruction whose effect keeps PC completes in every mode but Implied: its effect on the operand,
with PC past its bytes. -/
theorem runHandler_withOperand_next {o : Operand} {k : Byte → State → State} (ho : o ≠ .implied)
    (hk : ∀ m t, (k m t).pc = t.pc) (s : State) :
    ∃ m, memoryOperand o s.inHandler = some m ∧
      runHandler o.length (withOperand o k) s =
        .next ((k m s.inHandler).setPC (s.pc + BitVec.ofNat 16 o.length)) := by
  obtain ⟨m, u, hm, rfl, hnext⟩ | ⟨himplied, -⟩ := runHandler_withOperand o.length o k s
  · refine ⟨m, (memoryOperand_setPC o s _).trans hm, ?_⟩
    rw [hnext, hk, State.setPC_pc, Operand.pc_past]
    rfl
  · exact absurd himplied ho

/-- `SetZN` leaves the Zero and Negative of its value (R100). -/
theorem zeroNegativeOf_setZN {v : Byte} {t : State} {p : Byte} (h : t.p = setZN v p) : ZeroNegativeOf v t := by
  have hflag (f : Flag) : t.flag f = getFlag f (setZN v p) := congrArg (getFlag f) h
  refine ⟨?zero, ?negative⟩
  case zero => rw [hflag, getFlag_setZN_z, decide_eq_true_iff]
  case negative => rw [hflag, getFlag_setZN_n, msb_iff]

/-- `A <- v` with `SetZN` changes A, Zero and Negative only; a frame does not speak of PC. -/
theorem frame_loadA (v : Byte) (pc pc' : Addr) (s : State) :
    Frame [.a] [.z, .n] [] s ((loadA v (s.setPC pc)).setPC pc') where
  regs_kept r hr := by
    cases r with
    | a => exact absurd List.mem_cons_self hr
    | x | y | sp => rfl
  flags_kept f hf := by
    obtain ⟨hz, hn⟩ : f ≠ .z ∧ f ≠ .n := by simpa using hf
    exact getFlag_setZN_of_ne f v s.p hz hn
  memory_kept _ _ := rfl
  run_kept := rfl
  fault_kept := rfl

/-- A logic instruction outside Implied mode: A takes `op` of A and the operand, Zero and Negative are the result's, PC
is past the instruction, and the rest is kept (R111 to R113). -/
theorem logic_next (op : Byte → Byte → Byte) {o : Operand} (ho : o ≠ .implied) (s : State) :
    ∃ m t, memoryOperand o s.inHandler = some m ∧ logic op o s = .next t ∧
      t.a = op s.a m ∧ ZeroNegativeOf t.a t ∧ t.pc = s.pc + BitVec.ofNat 16 o.length ∧
      Frame [.a] [.z, .n] [] s t := by
  obtain ⟨m, hm, hnext⟩ :=
    runHandler_withOperand_next (k := fun m t => loadA (op t.a m) t) ho (fun _ _ => rfl) s
  exact ⟨m, _, hm, hnext, rfl, zeroNegativeOf_setZN rfl, rfl, frame_loadA _ _ _ s⟩

end Sys2Proof.Machine

namespace Sys2Proof.Proofs

open Machine

/-- Settles O25: each of the three instructions is `logic` of its operator, with the listed encodings as the rows of its
mnemonic, and none of the eight modes is Implied. -/
theorem logicCombinesAWithOperand : Obligations.LogicCombinesAWithOperand := by
  intro ins op codes hins o opc s hcode
  have hlogic : codes = (ins o).mnemonic.opcodes ∧ codes.map Prod.fst = Mode.eight ∧ (ins o).operand = o ∧
      exec (ins o) s = logic op o s := by
    simp only [List.mem_cons, Prod.mk.injEq, List.not_mem_nil, or_false] at hins
    obtain ⟨rfl, rfl, rfl⟩ | ⟨rfl, rfl, rfl⟩ | ⟨rfl, rfl, rfl⟩ := hins <;> exact ⟨rfl, rfl, rfl, rfl⟩
  obtain ⟨hrows, hmodes, hoperand, hexec⟩ := hlogic
  have ho : o ≠ .implied := Operand.ne_implied_of_mem_eight (hmodes ▸ List.mem_map_of_mem hcode)
  have hbytes := encode_of_mem_opcodes (i := ins o) (by rwa [hoperand, ← hrows])
  rw [hoperand] at hbytes
  exact ⟨hbytes, hexec ▸ logic_next op ho s⟩

end Sys2Proof.Proofs
end

section
/-! PROOFS of the statements of spec/44_bit_compare.md: instructions that read a memory operand and write flags only. -/

namespace Sys2Proof

/-- An operand whose mode is in a list of encodings is not Implied when none of them is. -/
theorem Operand.ne_implied_of_mem_codes {o : Operand} {opc : Byte} {codes : List (Mode × Byte)}
    (h : (o.mode, opc) ∈ codes) (hcodes : Mode.implied ∉ codes.map Prod.fst) : o ≠ .implied := by
  rintro rfl
  exact hcodes (List.mem_map_of_mem h)

end Sys2Proof

namespace Sys2Proof.Machine

/-- Writing P changes only the flags in which the new value differs from the old; a frame does not speak of PC. -/
theorem frame_setP {flags : List Flag} {s : State} {q : Byte} (hq : ∀ f, f ∉ flags → getFlag f q = s.flag f)
    (pc : Addr) : Frame [] flags [] s ((s.setP q).setPC pc) where
  regs_kept r _ := by cases r <;> rfl
  flags_kept := hq
  memory_kept _ _ := rfl
  run_kept := rfl
  fault_kept := rfl

/-- An instruction outside Implied mode that only replaces P by a value of the operand and the state: it completes with
that P, PC past the instruction, and all but the flags it writes kept. -/
theorem flagsOfOperand_next {o : Operand} (ho : o ≠ .implied) {q : Byte → State → Byte} {flags : List Flag}
    (hq : ∀ m t f, f ∉ flags → getFlag f (q m t) = t.flag f) (s : State) :
    ∃ m t, memoryOperand o s.inHandler = some m ∧
      runHandler o.length (withOperand o fun m t => t.setP (q m t)) s = .next t ∧
      t.p = q m s.inHandler ∧ t.pc = s.pc + BitVec.ofNat 16 o.length ∧ Frame [] flags [] s t := by
  obtain ⟨m, hm, hnext⟩ :=
    runHandler_withOperand_next (k := fun m t => t.setP (q m t)) ho (fun _ _ => rfl) s
  exact ⟨m, _, hm, hnext, rfl, rfl, frame_setP (s := s) (hq m s.inHandler) _⟩

/-- BIT outside Implied mode (R140). -/
theorem execBit_next {o : Operand} (ho : o ≠ .implied) (s : State) :
    ∃ m t, memoryOperand o s.inHandler = some m ∧ execBit o s = .next t ∧
      (t.flag .z = true ↔ s.a &&& m = 0) ∧ t.flag .n = m.getLsbD 7 ∧ t.flag .v = m.getLsbD 6 ∧
      t.pc = s.pc + BitVec.ofNat 16 o.length ∧ Frame [] [.z, .v, .n] [] s t := by
  have hkept (m : Byte) (t : State) (f : Flag) (hf : f ∉ [Flag.z, .v, .n]) :
      getFlag f (bitFlags t.a m t.p) = t.flag f := by
    rw [getFlag_bitFlags]
    cases f with
    | z | v | n => exact absurd hf (by decide)
    | c | i | d | b | u => rfl
  obtain ⟨m, t, hm, hnext, hp, hpc, hframe⟩ := flagsOfOperand_next ho hkept s
  have hflag (f : Flag) : t.flag f = getFlag f (bitFlags s.a m s.p) := congrArg (getFlag f) hp
  refine ⟨m, t, hm, hnext, ?zero, ?negative, ?overflow, hpc, hframe⟩
  case zero => rw [hflag, getFlag_bitFlags, decide_eq_true_iff]
  case negative => rw [hflag, getFlag_bitFlags]
  case overflow => rw [hflag, getFlag_bitFlags]

/-- The three compares outside Implied mode, over the register they read (R141 to R143). -/
theorem compareWith_next (r : Reg) {o : Operand} (ho : o ≠ .implied) (s : State) :
    ∃ m t, memoryOperand o s.inHandler = some m ∧ compareWith (·.reg r) o s = .next t ∧
      (t.flag .c = true ↔ m.toNat ≤ (s.reg r).toNat) ∧ (t.flag .z = true ↔ s.reg r = m) ∧
      (t.flag .n = true ↔ 128 ≤ ((s.reg r).toNat + 256 - m.toNat) % 256) ∧
      t.pc = s.pc + BitVec.ofNat 16 o.length ∧ Frame [] [.c, .z, .n] [] s t := by
  have hkept (m : Byte) (t : State) (f : Flag) (hf : f ∉ [Flag.c, .z, .n]) :
      getFlag f (compareFlags (t.reg r) m t.p) = t.flag f := by
    rw [getFlag_compareFlags]
    cases f with
    | c | z | n => exact absurd hf (by decide)
    | i | d | b | u | v => rfl
  obtain ⟨m, t, hm, hnext, hp, hpc, hframe⟩ := flagsOfOperand_next ho hkept s
  have hreg : s.inHandler.reg r = s.reg r := by cases r <;> rfl
  have hflag (f : Flag) : t.flag f = getFlag f (compareFlags (s.reg r) m s.p) := by
    rw [← hreg]
    exact congrArg (getFlag f) hp
  refine ⟨m, t, hm, hnext, ?carry, ?zero, ?negative, hpc, hframe⟩
  case carry => rw [hflag, getFlag_compareFlags, decide_eq_true_iff]
  case zero => rw [hflag, getFlag_compareFlags, decide_eq_true_iff]; exact sub_eq_zero
  case negative =>
    have hm : m.toNat < 256 := m.isLt
    rw [hflag, getFlag_compareFlags, msb_iff, BitVec.toNat_sub]
    omega

end Sys2Proof.Machine

namespace Sys2Proof.Proofs

open Machine

/-- Settles O29: its two encodings are the rows of BIT, neither of them Implied, and BIT writes P only. -/
theorem bitTestsOperand : Obligations.BitTestsOperand := by
  intro o opc s hcode
  have ho : o ≠ .implied := Operand.ne_implied_of_mem_codes hcode (by decide)
  exact ⟨encode_of_mem_opcodes (i := .bit o) hcode, execBit_next ho s⟩

/-- Settles O30: each of the three instructions is `compareWith` of its register, with the listed encodings as the rows
of its mnemonic, none of them Implied. -/
theorem compareSetsFlags : Obligations.CompareSetsFlags := by
  intro ins r codes hins o opc s hcode
  have hcompare : codes = (ins o).mnemonic.opcodes ∧ Mode.implied ∉ codes.map Prod.fst ∧ (ins o).operand = o ∧
      exec (ins o) s = compareWith (·.reg r) o s := by
    simp only [List.mem_cons, Prod.mk.injEq, List.not_mem_nil, or_false] at hins
    obtain ⟨rfl, rfl, rfl⟩ | ⟨rfl, rfl, rfl⟩ | ⟨rfl, rfl, rfl⟩ := hins <;> exact ⟨rfl, by decide, rfl, rfl⟩
  obtain ⟨hrows, hmodes, hoperand, hexec⟩ := hcompare
  have hbytes := encode_of_mem_opcodes (i := ins o) (by rwa [hoperand, ← hrows])
  rw [hoperand] at hbytes
  have ho : o ≠ .implied := Operand.ne_implied_of_mem_codes hcode hmodes
  exact ⟨hbytes, hexec ▸ compareWith_next r ho s⟩

end Sys2Proof.Proofs
end

section
/-! PROOFS of the statements of spec/45_incdec_load_transfer.md on registers: steps of X and Y, loads and transfers, all
of them a value loaded into one register. -/

namespace Sys2Proof.Machine

/-- A frame does not speak of PC, on either side. -/
theorem Frame.of_setPC {regs : List Reg} {flags : List Flag} {cells : List Addr} {s t : State} {pc : Addr}
    (h : Frame regs flags cells (s.setPC pc) t) (pc' : Addr) : Frame regs flags cells s (t.setPC pc') :=
  ⟨h.regs_kept, h.flags_kept, h.memory_kept, h.run_kept, h.fault_kept⟩

/-- `load` puts a value into `r` and its Zero and Negative into P, and changes nothing else, PC included. -/
structure Loads (r : Reg) (load : Byte → State → State) : Prop where
  reg_eq : ∀ v t q, (load v t).reg q = if q = r then v else t.reg q
  p_eq : ∀ v t, (load v t).p = setZN v t.p
  pc_eq : ∀ v t, (load v t).pc = t.pc
  read_eq : ∀ v t a, (load v t).read a = t.read a
  run_eq : ∀ v t, (load v t).run = t.run
  fault_eq : ∀ v t, (load v t).fault = t.fault

theorem loads_loadA : Loads .a loadA where
  reg_eq _ _ q := by cases q <;> rfl
  p_eq _ _ := rfl
  pc_eq _ _ := rfl
  read_eq _ _ _ := rfl
  run_eq _ _ := rfl
  fault_eq _ _ := rfl

theorem loads_loadX : Loads .x loadX where
  reg_eq _ _ q := by cases q <;> rfl
  p_eq _ _ := rfl
  pc_eq _ _ := rfl
  read_eq _ _ _ := rfl
  run_eq _ _ := rfl
  fault_eq _ _ := rfl

theorem loads_loadY : Loads .y loadY where
  reg_eq _ _ q := by cases q <;> rfl
  p_eq _ _ := rfl
  pc_eq _ _ := rfl
  read_eq _ _ _ := rfl
  run_eq _ _ := rfl
  fault_eq _ _ := rfl

section Load

variable {r : Reg} {load : Byte → State → State} (hload : Loads r load)
include hload

/-- The register loaded holds the value. -/
theorem Loads.reg_self (v : Byte) (t : State) : (load v t).reg r = v := by
  rw [hload.reg_eq, if_pos rfl]

/-- A load changes its register, Zero and Negative only. -/
theorem Loads.frame (v : Byte) (t : State) : Frame [r] [.z, .n] [] t (load v t) where
  regs_kept q hq := by rw [hload.reg_eq, if_neg (List.ne_of_not_mem_cons hq)]
  flags_kept f hf := by
    obtain ⟨hz, hn⟩ : f ≠ .z ∧ f ≠ .n := by simpa using hf
    exact (congrArg (getFlag f) (hload.p_eq v t)).trans (getFlag_setZN_of_ne f v t.p hz hn)
  memory_kept a _ := hload.read_eq v t a
  run_kept := hload.run_eq v t
  fault_kept := hload.fault_eq v t

/-- A load of the operand outside Implied mode (R156 to R158). -/
theorem Loads.withOperand_next {o : Operand} (ho : o ≠ .implied) (s : State) :
    ∃ m t, memoryOperand o s.inHandler = some m ∧ runHandler o.length (withOperand o load) s = .next t ∧
      t.reg r = m ∧ ZeroNegativeOf m t ∧ t.pc = s.pc + BitVec.ofNat 16 o.length ∧ Frame [r] [.z, .n] [] s t := by
  obtain ⟨m, hm, hnext⟩ := runHandler_withOperand_next ho hload.pc_eq s
  exact ⟨m, _, hm, hnext, hload.reg_self m _, zeroNegativeOf_setZN (hload.p_eq m _), rfl,
    (hload.frame m s.inHandler).of_setPC _⟩

/-- A one-byte load of a value of the state in which PC plays no part (R152 to R155, R159, R160). -/
theorem Loads.implied_next {v : State → Byte} (hv : ∀ s pc, v (s.setPC pc) = v s) (s : State) :
    ∃ t, implied (fun t => load (v t) t) s = .next t ∧
      t.reg r = v s ∧ ZeroNegativeOf (v s) t ∧ t.pc = s.pc + 1 ∧ Frame [r] [.z, .n] [] s t := by
  refine ⟨load (v s) s.inHandler, ?next, hload.reg_self _ _, zeroNegativeOf_setZN (hload.p_eq _ _), hload.pc_eq _ _,
    (hload.frame (v s) s.inHandler).of_setPC _⟩
  case next =>
    rw [implied_eq, hv]
    rfl

end Load

/-- One less, modulo 256, is 255 more. -/
theorem sub_one_eq_add_255 (v : Byte) : v - 1 = v + 255 := BitVec.sub_eq_add_neg v 1

end Sys2Proof.Machine

namespace Sys2Proof.Proofs

open Machine

/-- Settles O32: each of the four loads its register with `k` more, one less being 255 more. -/
theorem incDecOfIndex : Obligations.IncDecOfIndex := by
  intro i opc r k hi
  have hstep : encode i = some [opc] ∧ ∃ load, Loads r load ∧
      ∀ s, exec i s = implied (fun t => load (t.reg r + BitVec.ofNat 8 k) t) s := by
    simp only [List.mem_cons, Prod.mk.injEq, List.not_mem_nil, or_false] at hi
    obtain ⟨rfl, rfl, rfl, rfl⟩ | ⟨rfl, rfl, rfl, rfl⟩ | ⟨rfl, rfl, rfl, rfl⟩ | ⟨rfl, rfl, rfl, rfl⟩ := hi
    · exact ⟨rfl, loadX, loads_loadX, fun s => by simp only [exec_dex, sub_one_eq_add_255]; rfl⟩
    · exact ⟨rfl, loadY, loads_loadY, fun s => by simp only [exec_dey, sub_one_eq_add_255]; rfl⟩
    · exact ⟨rfl, loadX, loads_loadX, exec_inx⟩
    · exact ⟨rfl, loadY, loads_loadY, exec_iny⟩
  obtain ⟨hbytes, load, hload, hexec⟩ := hstep
  refine ⟨hbytes, fun s => ?_⟩
  obtain ⟨t, hnext, hreg, hzn, hpc, hframe⟩ :=
    hload.implied_next (v := fun t => t.reg r + BitVec.ofNat 8 k) (fun _ _ => rfl) s
  refine ⟨t, (hexec s).trans hnext, ?value, hreg ▸ hzn, hpc, hframe⟩
  case value => rw [hreg, BitVec.toNat_add, BitVec.toNat_ofNat, Nat.add_mod_mod]

/-- Settles O33: each of the three instructions loads the operand into its register, with the listed encodings as the
rows of its mnemonic, none of them Implied. -/
theorem loadTakesOperand : Obligations.LoadTakesOperand := by
  intro ins r codes hins o opc s hcode
  have hinstr : codes = (ins o).mnemonic.opcodes ∧ Mode.implied ∉ codes.map Prod.fst ∧ (ins o).operand = o ∧
      ∃ load, Loads r load ∧ exec (ins o) s = runHandler o.length (withOperand o load) s := by
    simp only [List.mem_cons, Prod.mk.injEq, List.not_mem_nil, or_false] at hins
    obtain ⟨rfl, rfl, rfl⟩ | ⟨rfl, rfl, rfl⟩ | ⟨rfl, rfl, rfl⟩ := hins
    · exact ⟨rfl, by decide, rfl, loadA, loads_loadA, exec_lda o s⟩
    · exact ⟨rfl, by decide, rfl, loadX, loads_loadX, exec_ldx o s⟩
    · exact ⟨rfl, by decide, rfl, loadY, loads_loadY, exec_ldy o s⟩
  obtain ⟨hrows, hmodes, hoperand, load, hload, hexec⟩ := hinstr
  have hbytes := encode_of_mem_opcodes (i := ins o) (by rwa [hoperand, ← hrows])
  rw [hoperand] at hbytes
  exact ⟨hbytes, hexec ▸ hload.withOperand_next (Operand.ne_implied_of_mem_codes hcode hmodes) s⟩

/-- Settles O34: both load the value of A into an index register. -/
theorem transferCopiesA : Obligations.TransferCopiesA := by
  intro i opc r hi
  have htransfer : encode i = some [opc] ∧ ∃ load, Loads r load ∧ ∀ s, exec i s = implied (fun t => load t.a t) s := by
    simp only [List.mem_cons, Prod.mk.injEq, List.not_mem_nil, or_false] at hi
    obtain ⟨rfl, rfl, rfl⟩ | ⟨rfl, rfl, rfl⟩ := hi
    · exact ⟨rfl, loadX, loads_loadX, exec_tax⟩
    · exact ⟨rfl, loadY, loads_loadY, exec_tay⟩
  obtain ⟨hbytes, load, hload, hexec⟩ := htransfer
  exact ⟨hbytes, fun s => hexec s ▸ hload.implied_next (v := State.a) (fun _ _ => rfl) s⟩

end Sys2Proof.Proofs
end

section
/-! PROOFS of the statements of spec/48_flags_nop_brk.md: one-byte instructions that write one flag, and the one byte
that is a NOP. -/

namespace Sys2Proof

/-- Only the byte the encoder chooses for an instruction decodes to it: no two opcode bytes share a mnemonic and a mode
(R64). -/
theorem opcodeAt_of_decodeBytes_ok {opc b1 b2 : Byte} {i : Instr} (h : decodeBytes opc b1 b2 = .ok i) :
    i.mnemonic.opcodeAt i.operand.mode = some opc := by
  obtain ⟨d, hd, -, hmn, ho, -, -⟩ := decodeBytes_ok h
  obtain ⟨-, -, hopc⟩ := optable_entry opc d hd
  rwa [hmn, ho, Mode.assemble_mode]

end Sys2Proof

namespace Sys2Proof.Machine

/-- A one-byte instruction that writes one flag: PC is one further, and the rest is kept (R190 to R193). -/
theorem implied_setFlag_next (f : Flag) (v : Bool) (s : State) :
    ∃ t, implied (fun t => t.setFlag f v) s = .next t ∧
      t.flag f = v ∧ t.pc = s.pc + 1 ∧ t.mem = s.mem ∧ Frame [] [f] [] s t := by
  have hflag (g : Flag) : getFlag g (putFlag f v s.p) = if g = f then v else s.flag g := getFlag_putFlag g f v s.p
  have hkept (g : Flag) (hg : g ∉ [f]) : getFlag g (putFlag f v s.p) = s.flag g := by
    rw [hflag, if_neg (List.ne_of_not_mem_cons hg)]
  refine ⟨_, implied_eq _ s, ?written, rfl, rfl, frame_setP hkept (s.pc + 1)⟩
  case written => exact (hflag f).trans (if_pos rfl)

end Sys2Proof.Machine

namespace Sys2Proof.Proofs

open Machine

/-- Settles O43: each of the four is one byte, and its handler writes 0 to its flag. -/
theorem clearClearsOneFlag : Obligations.ClearClearsOneFlag := by
  intro i opc f hi
  have hclear : encode i = some [opc] ∧ ∀ s, exec i s = implied (fun t => t.setFlag f false) s := by
    simp only [List.mem_cons, Prod.mk.injEq, List.not_mem_nil, or_false] at hi
    obtain ⟨rfl, rfl, rfl⟩ | ⟨rfl, rfl, rfl⟩ | ⟨rfl, rfl, rfl⟩ | ⟨rfl, rfl, rfl⟩ := hi
    · exact ⟨rfl, exec_clc⟩
    · exact ⟨rfl, exec_cld⟩
    · exact ⟨rfl, exec_cli⟩
    · exact ⟨rfl, exec_clv⟩
  obtain ⟨hbytes, hexec⟩ := hclear
  exact ⟨hbytes, fun s => hexec s ▸ implied_setFlag_next f false s⟩

/-- Settles O44: NOP has no effect of its own, and its byte is the only one that decodes to it. -/
theorem nopAdvancesPc : Obligations.NopAdvancesPc := by
  refine ⟨fun s => (exec_nop s).trans (implied_eq (fun t => t) s), fun opc b1 b2 => ⟨fun h => ?only, ?decodes⟩⟩
  case only =>
    have hopc : some (0xEA : Byte) = some opc := opcodeAt_of_decodeBytes_ok h
    exact (Option.some.inj hopc).symm
  case decodes =>
    rintro rfl
    rfl

end Sys2Proof.Proofs
end

section
/-! PROOFS of the statements of spec/30_encoding.md: decoding and encoding are inverse to each other, and how the 256
opcode bytes divide. -/

namespace Sys2Proof

/-- A byte the encoder chooses for an instruction decodes to it, before the bytes its operand is assembled from. -/
theorem decodeBytes_of_opcodeAt {i : Instr} {opc b1 b2 : Byte}
    (hopc : i.mnemonic.opcodeAt i.operand.mode = some opc) (ho : i.operand.mode.assemble b1 b2 = i.operand) :
    decodeBytes opc b1 b2 = .ok i := by
  have hinstr : Descriptor.instr ⟨i.mnemonic, i.operand.mode, i.operand.mode.length⟩ b1 b2 = i := by
    rw [Descriptor.instr, ho, i.instr_self b1 b2 ho]
  rw [decodeBytes, decodeWith, opcodeAt_entry hopc]
  exact congrArg Except.ok hinstr

/-- Decoding takes the bytes of an instruction and leaves those after them. -/
theorem decode_of_opcodeAt {i : Instr} {opc : Byte} (hopc : i.mnemonic.opcodeAt i.operand.mode = some opc)
    (rest : List Byte) : decode (opc :: i.operand.bytes ++ rest) = .ok (i, rest) := by
  have hlen : i.operand.bytes.length + 1 = i.length := i.operand.bytes_length
  have hfits : ¬ (i.operand.bytes ++ rest).length + 1 < i.length := by
    rw [List.length_append]
    omega
  have hdrop : (i.operand.bytes ++ rest).drop (i.length - 1) = rest := by
    rw [← hlen, Nat.add_sub_cancel, List.drop_left]
  simp only [List.cons_append, decode, decodeBytes_of_opcodeAt hopc (Mode.assemble_bytes i.operand rest), if_neg hfits,
    hdrop]

/-- The operand assembled from a byte string with enough bytes has those bytes. -/
theorem Mode.assemble_bytes_append_drop (m : Mode) (tl : List Byte) (h : m.length ≤ tl.length + 1) :
    (m.assemble (tl.getD 0 0) (tl.getD 1 0)).bytes ++ tl.drop (m.length - 1) = tl := by
  have two (b1 b2 : Byte) (rest : List Byte) :
      lowByte (concat b2 b1) :: highByte (concat b2 b1) :: rest = b1 :: b2 :: rest := by
    rw [lowByte_concat, highByte_concat]
  cases m with
  | implied => rfl
  | immediate | relative | zeroPage | zeroPageX | zeroPageY | indirectX | indirectY =>
    obtain _ | ⟨b1, rest⟩ := tl
    · exact absurd h (by decide)
    · rfl
  | absolute | absoluteX | absoluteY | indirect =>
    obtain _ | ⟨b1, _ | ⟨b2, rest⟩⟩ := tl
    · exact absurd h (by decide)
    · simp [Mode.length] at h
    · exact two b1 b2 rest

end Sys2Proof

namespace Sys2Proof.Proofs

/-- Settles O1: the byte the encoder chooses is in the decoder's table with the same pair, and the operand is assembled
from the bytes it has. -/
theorem decodeReadsBackEncode : Obligations.DecodeReadsBackEncode := by
  intro i rest hwf
  obtain ⟨opc, hopc⟩ := Option.isSome_iff_exists.mp (Mnemonic.opcodeAt_isSome i.mnemonic i.operand.mode hwf)
  refine ⟨opc :: i.operand.bytes, ?encoded, decode_of_opcodeAt hopc rest⟩
  case encoded => rw [encode, hopc, Option.map_some]

/-- Settles O2: the encoder's table has the byte at the pair the decoder found, and the operand keeps the bytes it was
assembled from. -/
theorem decodedInstructionEncodesBack : Obligations.DecodedInstructionEncodesBack := by
  intro bytes rest i h
  obtain ⟨opc, tl, rfl, hi, hlen, rfl⟩ := decode_ok h
  obtain ⟨d, -, -, -, ho, hwf, -⟩ := decodeBytes_ok hi
  have hlength : i.length = d.mode.length := by rw [Instr.length, ho, Operand.length, Mode.assemble_mode]
  refine ⟨hwf, opc :: i.operand.bytes, ?encoded, ?bytes⟩
  case encoded => rw [encode, opcodeAt_of_decodeBytes_ok hi, Option.map_some]
  case bytes =>
    rw [hlength] at hlen
    rw [ho, hlength, List.cons_append, d.mode.assemble_bytes_append_drop tl hlen]

/-- Settles O3: each clause is one evaluation of the decoder. -/
theorem wordsOfTheSpecDecode : Obligations.WordsOfTheSpecDecode :=
  ⟨rfl, rfl, rfl, rfl, rfl, rfl, rfl, rfl, rfl, rfl, rfl, rfl, rfl, rfl, rfl, rfl⟩

/-- Settles O4: the table is read at each of the 256 bytes. -/
theorem opcodeMapPartition : Obligations.OpcodeMapPartition := by
  unfold Obligations.OpcodeMapPartition
  refine ⟨?unknown, ?count, ?unimplemented, ?implemented⟩
  case unknown => decide +kernel
  case count => decide +kernel
  case unimplemented => decide +kernel
  case implemented => decide +kernel

end Sys2Proof.Proofs
end

section
/-! SUPPORT for the proofs over all instructions: one rule for each state operation, as a frame, and the three things an
instruction can do, from which the statements about every instruction follow. -/

namespace Sys2Proof.Machine

/-! ### Frames of the state operations -/

/-- Two frames in a row: what either may change. -/
theorem Frame.trans {regs regs' : List Reg} {flags flags' : List Flag} {cells cells' : List Addr} {s t u : State}
    (h : Frame regs flags cells s t) (h' : Frame regs' flags' cells' t u) :
    Frame (regs ++ regs') (flags ++ flags') (cells ++ cells') s u where
  regs_kept r hr := by
    obtain ⟨hl, hr⟩ : r ∉ regs ∧ r ∉ regs' := by simpa using hr
    exact (h'.regs_kept r hr).trans (h.regs_kept r hl)
  flags_kept f hf := by
    obtain ⟨hl, hr⟩ : f ∉ flags ∧ f ∉ flags' := by simpa using hf
    exact (h'.flags_kept f hr).trans (h.flags_kept f hl)
  memory_kept a ha := by
    obtain ⟨hl, hr⟩ : a ∉ cells ∧ a ∉ cells' := by simpa using ha
    exact (h'.memory_kept a hr).trans (h.memory_kept a hl)
  run_kept := h'.run_kept.trans h.run_kept
  fault_kept := h'.fault_kept.trans h.fault_kept

/-- A frame may name more than what changes. -/
theorem Frame.mono {regs regs' : List Reg} {flags flags' : List Flag} {cells cells' : List Addr} {s t : State}
    (h : Frame regs flags cells s t) (hregs : regs ⊆ regs') (hflags : flags ⊆ flags') (hcells : cells ⊆ cells') :
    Frame regs' flags' cells' s t where
  regs_kept r hr := h.regs_kept r fun hmem => hr (hregs hmem)
  flags_kept f hf := h.flags_kept f fun hmem => hf (hflags hmem)
  memory_kept a ha := h.memory_kept a fun hmem => ha (hcells hmem)
  run_kept := h.run_kept
  fault_kept := h.fault_kept

theorem frame_setPC (s : State) (v : Addr) : Frame [] [] [] s (s.setPC v) where
  regs_kept r _ := by cases r <;> rfl
  flags_kept _ _ := rfl
  memory_kept _ _ := rfl
  run_kept := rfl
  fault_kept := rfl

theorem frame_setA (s : State) (v : Byte) : Frame [.a] [] [] s (s.setA v) where
  regs_kept r hr := by
    cases r with
    | a => exact absurd List.mem_cons_self hr
    | x | y | sp => rfl
  flags_kept _ _ := rfl
  memory_kept _ _ := rfl
  run_kept := rfl
  fault_kept := rfl

theorem frame_setSP (s : State) (v : Byte) : Frame [.sp] [] [] s (s.setSP v) where
  regs_kept r hr := by
    cases r with
    | sp => exact absurd List.mem_cons_self hr
    | a | x | y => rfl
  flags_kept _ _ := rfl
  memory_kept _ _ := rfl
  run_kept := rfl
  fault_kept := rfl

theorem frame_write (s : State) (a : Addr) (v : Byte) : Frame [] [] [a] s (s.write a v) where
  regs_kept r _ := by cases r <;> rfl
  flags_kept _ _ := rfl
  memory_kept b hb := by rw [State.read_write, if_neg (List.ne_of_not_mem_cons hb)]
  run_kept := rfl
  fault_kept := rfl

/-- P replaced as a whole: every flag may change. -/
theorem frame_setP_all (s : State) (v : Byte) : Frame [] [.c, .z, .i, .d, .b, .u, .v, .n] [] s (s.setP v) := by
  have hall (f : Flag) : f ∈ [Flag.c, .z, .i, .d, .b, .u, .v, .n] := by cases f <;> decide
  exact frame_setP (q := v) (fun f hf => absurd (hall f) hf) s.pc

/-- A push changes SP and its slot. -/
theorem frame_push (s : State) (v : Byte) : Frame [.sp] [] [stackAddr s.sp] s (s.push v) :=
  (frame_write s (stackAddr s.sp) v).trans (frame_setSP _ _)

/-- A pop changes SP and its slot. -/
theorem frame_afterPop (s : State) : Frame [.sp] [] [stackAddr (s.sp + 1)] s s.afterPop :=
  (frame_setSP s (s.sp + 1)).trans (frame_write _ _ _)

/-- The pop's slot reads 0x00 after it. -/
theorem State.afterPop_read_slot (s : State) : s.afterPop.read (stackAddr (s.sp + 1)) = 0 := by
  rw [State.afterPop_read, if_pos rfl]

/-- The push's slot holds the byte pushed. -/
theorem State.push_read_slot (s : State) (v : Byte) : (s.push v).read (stackAddr s.sp) = v := by
  rw [State.push_read, if_pos rfl]

/-! ### Effects on registers and flags -/

/-- `f` changes the named registers and flags at most, and neither PC, SP nor the memory. -/
structure RegisterEffect (regs : List Reg) (flags : List Flag) (f : State → State) : Prop where
  frame : ∀ t, Frame regs flags [] t (f t)
  pc_kept : ∀ t, (f t).pc = t.pc
  sp_kept : ∀ t, (f t).sp = t.sp
  mem_kept : ∀ t, (f t).mem = t.mem

theorem registerEffect_loadA (v : State → Byte) : RegisterEffect [.a] [.z, .n] fun t => loadA (v t) t :=
  ⟨fun t => loads_loadA.frame (v t) t, fun _ => rfl, fun _ => rfl, fun _ => rfl⟩

theorem registerEffect_loadX (v : State → Byte) : RegisterEffect [.x] [.z, .n] fun t => loadX (v t) t :=
  ⟨fun t => loads_loadX.frame (v t) t, fun _ => rfl, fun _ => rfl, fun _ => rfl⟩

theorem registerEffect_loadY (v : State → Byte) : RegisterEffect [.y] [.z, .n] fun t => loadY (v t) t :=
  ⟨fun t => loads_loadY.frame (v t) t, fun _ => rfl, fun _ => rfl, fun _ => rfl⟩

theorem registerEffect_setP {flags : List Flag} {q : State → Byte}
    (hq : ∀ t f, f ∉ flags → getFlag f (q t) = t.flag f) : RegisterEffect [] flags fun t => t.setP (q t) :=
  ⟨fun t => frame_setP (hq t) t.pc, fun _ => rfl, fun _ => rfl, fun _ => rfl⟩

/-- A and P written together. -/
theorem registerEffect_setA_setP {flags : List Flag} {v q : State → Byte}
    (hq : ∀ t f, f ∉ flags → getFlag f (q t) = t.flag f) :
    RegisterEffect [.a] flags fun t => (t.setA (v t)).setP (q t) :=
  ⟨fun t => (frame_setA t (v t)).trans (frame_setP (s := t.setA (v t)) (hq t) t.pc), fun _ => rfl, fun _ => rfl,
    fun _ => rfl⟩

/-! ### The flags each computation of P leaves alone -/

theorem getFlag_adcFlags_kept (a m p : Byte) (f : Flag) (hf : f ∉ [Flag.c, .z, .v, .n]) :
    getFlag f (adcFlags a m p) = getFlag f p := by
  rw [getFlag_adcFlags]
  cases f with
  | c | z | v | n => exact absurd hf (by decide)
  | i | d | b | u => rfl

theorem getFlag_shiftFlags_kept (r : Byte × Bool) (p : Byte) (f : Flag) (hf : f ∉ [Flag.c, .z, .n]) :
    getFlag f (shiftFlags r p) = getFlag f p := by
  rw [getFlag_shiftFlags]
  cases f with
  | c | z | n => exact absurd hf (by decide)
  | i | d | b | u | v => rfl

theorem getFlag_compareFlags_kept (r m p : Byte) (f : Flag) (hf : f ∉ [Flag.c, .z, .n]) :
    getFlag f (compareFlags r m p) = getFlag f p := by
  rw [getFlag_compareFlags]
  cases f with
  | c | z | n => exact absurd hf (by decide)
  | i | d | b | u | v => rfl

theorem getFlag_bitFlags_kept (a m p : Byte) (f : Flag) (hf : f ∉ [Flag.z, .v, .n]) :
    getFlag f (bitFlags a m p) = getFlag f p := by
  rw [getFlag_bitFlags]
  cases f with
  | z | v | n => exact absurd hf (by decide)
  | c | i | d | b | u => rfl

theorem getFlag_setZN_kept (v p : Byte) (f : Flag) (hf : f ∉ [Flag.z, .n]) : getFlag f (setZN v p) = getFlag f p := by
  obtain ⟨hz, hn⟩ : f ≠ .z ∧ f ≠ .n := by simpa using hf
  exact getFlag_setZN_of_ne f v p hz hn

theorem getFlag_putFlag_kept (g : Flag) (v : Bool) (p : Byte) (f : Flag) (hf : f ∉ [g]) :
    getFlag f (putFlag g v p) = getFlag f p := by
  rw [getFlag_putFlag, if_neg (List.ne_of_not_mem_cons hf)]

end Sys2Proof.Machine

namespace Sys2Proof

/-- The mnemonics whose handler evaluates an effective address in every mode (R97, R223). -/
def Mnemonic.evaluatesAddress (mn : Mnemonic) : Bool :=
  mn ∈ [Mnemonic.adc, .and, .ora, .eor, .bit, .cmp, .cpx, .cpy, .dec, .inc, .lda, .ldx, .ldy, .jmp]

/-- The instruction asks for the effective address of Implied (R223). -/
def Instr.misused (i : Instr) : Prop := i.mnemonic.evaluatesAddress = true ∧ i.operand = .implied

/-- None of the twelve evaluates an address: NotImplemented comes first (R80). -/
theorem Mnemonic.evaluatesAddress_of_unimplemented {mn : Mnemonic} (h : mn.unimplemented = true) :
    mn.evaluatesAddress = false := by
  revert h
  cases mn <;> decide

/-- A mnemonic that evaluates an address has no Implied form in the table (R64). -/
theorem Mnemonic.implied_not_mem_modes {mn : Mnemonic} (h : mn.evaluatesAddress = true) : .implied ∉ mn.modes := by
  revert h
  cases mn <;> decide

/-- AddressingModeMisuse is unreachable with the spec's table (R223). -/
theorem Instr.not_misused_of_wellFormed {i : Instr} (h : i.wellFormed = true) : ¬ i.misused := by
  rintro ⟨haddr, ho⟩
  rw [Instr.wellFormed, ho, List.contains_iff_mem] at h
  exact Mnemonic.implied_not_mem_modes haddr h

end Sys2Proof

namespace Sys2Proof.Machine

/-! ### Everything an instruction can do -/

/-- The instruction completes: what its rows of the tables do not name is kept, and SP, PC, `run` and the memory's form
are as the spec says for every instruction. -/
structure Completes (i : Instr) (s t : State) : Prop where
  regs_kept : ∀ r, r ∉ i.regsWritten → t.reg r = s.reg r
  flags_kept : ∀ f, f ∉ i.mnemonic.flagsWritten → t.flag f = s.flag f
  memory_kept : ∀ a, a ∉ i.storesTo s → t.read a = s.read a
  run_eq : t.run = if i = .brk then .halted else s.run
  fault_kept : t.fault = s.fault
  sp_eq : t.sp = s.sp + i.mnemonic.stackEffect
  pc_eq : i.setsPC s = false → t.pc = s.pc + BitVec.ofNat 16 i.length
  memory_wf : s.mem.wf → t.mem.wf

/-- The three things an instruction can do: raise NotImplemented, raise AddressingModeMisuse, or complete. -/
inductive Executes (i : Instr) (s : State) : State → Prop where
  | unimplemented (h : i.mnemonic.unimplemented = true) : Executes i s (s.raiseHere .notImplemented)
  | misused (h : i.misused) : Executes i s (s.raiseHere .addressingModeMisuse)
  | completed {t : State} (himpl : i.mnemonic.unimplemented = false) (huse : ¬ i.misused) (h : Completes i s t) :
      Executes i s t

theorem not_misused_of_evaluatesAddress {i : Instr} (h : i.mnemonic.evaluatesAddress = false) : ¬ i.misused :=
  fun ⟨h', _⟩ => Bool.false_ne_true (h.symm.trans h')

/-- What the tables say of an instruction with a handler, other than BRK: whether it evaluates an address in every mode,
and its stack effect. -/
structure Handles (i : Instr) (evaluates : Bool) (effect : Byte) : Prop where
  implemented : i.mnemonic.unimplemented = false
  evaluates_eq : i.mnemonic.evaluatesAddress = evaluates
  effect_eq : i.mnemonic.stackEffect = effect
  not_brk : i ≠ .brk

theorem Handles.not_misused {i : Instr} {effect : Byte} (h : Handles i false effect) : ¬ i.misused :=
  not_misused_of_evaluatesAddress h.evaluates_eq

/-- Such an instruction completes, from its frame and what a frame does not speak of. -/
theorem Handles.executes {i : Instr} {evaluates : Bool} {effect : Byte} (h : Handles i evaluates effect) {s t : State}
    (huse : ¬ i.misused) (hframe : Frame i.regsWritten i.mnemonic.flagsWritten (i.storesTo s) s t)
    (hsp : t.sp = s.sp + effect) (hpc : i.setsPC s = false → t.pc = s.pc + BitVec.ofNat 16 i.length)
    (hwf : s.mem.wf → t.mem.wf) : Executes i s t :=
  .completed h.implemented huse
    { regs_kept := hframe.regs_kept
      flags_kept := hframe.flags_kept
      memory_kept := hframe.memory_kept
      run_eq := by rw [if_neg h.not_brk, hframe.run_kept]
      fault_kept := hframe.fault_kept
      sp_eq := by rw [h.effect_eq, hsp]
      pc_eq := hpc
      memory_wf := hwf }

/-- An instruction that changes registers and flags only, with PC past it. -/
theorem Handles.executes_registerEffect {i : Instr} {evaluates : Bool} (h : Handles i evaluates 0)
    (huse : ¬ i.misused) {f : State → State} (hf : RegisterEffect i.regsWritten i.mnemonic.flagsWritten f) (s : State) :
    Executes i s ((f s.inHandler).setPC (s.pc + BitVec.ofNat 16 i.length)) := by
  refine h.executes huse ?frame ?sp (fun _ => rfl) ?wf
  case frame =>
    exact ((hf.frame s.inHandler).of_setPC _).mono (List.Subset.refl _) (List.Subset.refl _) (List.nil_subset _)
  case sp => rw [add_zero]; exact hf.sp_kept s.inHandler
  case wf => exact fun h => (congrArg Memory.wf (hf.mem_kept s.inHandler)).mpr h

end Sys2Proof.Machine
end

section
/-! SUPPORT for the proofs over all instructions, continued: each shape of handler and then each instruction does one of
the three things (`exec_next`). -/

namespace Sys2Proof.Machine

/-- The next state of an instruction, and that it is one of the three things an instruction can do. -/
def Runs (i : Instr) (s : State) : Prop := ∃ t, exec i s = .next t ∧ Executes i s t

/-! ### The shapes of handler -/

/-- An instruction whose handler reads the memory operand. -/
theorem runs_withOperand {i : Instr} {s : State} {k : Byte → State → State}
    (hexec : exec i s = runHandler i.length (withOperand i.operand k) s)
    (hk : ∀ m, RegisterEffect i.regsWritten i.mnemonic.flagsWritten (k m))
    (h : Handles i true 0 := by exact ⟨rfl, rfl, rfl, nofun⟩) : Runs i s := by
  by_cases ho : i.operand = .implied
  · refine ⟨_, hexec.trans (runHandler_misuse (withOperand_none ?_)), .misused ⟨h.evaluates_eq, ho⟩⟩
    rw [ho]
    rfl
  · obtain ⟨m, -, hnext⟩ := runHandler_withOperand_next ho (fun m => (hk m).pc_kept) s
    exact ⟨_, hexec.trans hnext, h.executes_registerEffect (fun huse => ho huse.2) (hk m) s⟩

/-- A one-byte instruction that changes registers and flags only. -/
theorem runs_implied {i : Instr} {s : State} {f : State → State} (hexec : exec i s = implied f s)
    (hf : RegisterEffect i.regsWritten i.mnemonic.flagsWritten f) (hlen : i.length = 1 := by rfl)
    (h : Handles i false 0 := by exact ⟨rfl, rfl, rfl, nofun⟩) : Runs i s := by
  have hpc : (f s.inHandler).pc = s.pc + BitVec.ofNat 16 i.length := by rw [hf.pc_kept, hlen]; rfl
  refine ⟨_, hexec.trans (implied_eq f s), ?_⟩
  have hexecutes := h.executes_registerEffect h.not_misused hf s
  rwa [← hpc] at hexecutes

/-- A read-modify-write in every mode but Implied: the byte at the effective address is replaced, P written, and PC is
past the instruction (R124, R150, R151). -/
theorem runHandler_modifyMemory_next {o : Operand} (ho : o ≠ .implied) (f : Byte → Byte) (g : Byte → Byte → Byte)
    (s : State) :
    ∃ a, effectiveAddress o s.inHandler = some a ∧
      runHandler o.length (modifyMemory o f g) s =
        .next (((s.write a (f (s.read a))).setP (g (s.read a) s.p)).setPC (s.pc + BitVec.ofNat 16 o.length)) := by
  obtain ⟨a, ha, hnext⟩ | ⟨himplied, -⟩ := runHandler_modifyMemory o.length o f g s
  · exact ⟨a, ha, by rw [hnext, Operand.pc_past]⟩
  · exact absurd himplied ho

/-- What a read-modify-write changes. -/
theorem frame_modifyMemory {flags : List Flag} {s : State} {q : Byte} (hq : ∀ f, f ∉ flags → getFlag f q = s.flag f)
    (a : Addr) (v : Byte) (pc : Addr) : Frame [] flags [a] s (((s.write a v).setP q).setPC pc) :=
  (frame_write s a v).trans (frame_setP (s := s.write a v) hq pc)

/-- INC and DEC. -/
theorem runs_modifyMemory {i : Instr} {s : State} {f : Byte → Byte}
    (hexec : exec i s = runHandler i.length (modifyMemory i.operand f fun v p => setZN (f v) p) s)
    (hregs : i.regsWritten = [] := by rfl) (hflags : i.mnemonic.flagsWritten = [.z, .n] := by rfl)
    (hstores : i.storesTo s = (effectiveAddress i.operand s.inHandler).toList := by rfl)
    (h : Handles i true 0 := by exact ⟨rfl, rfl, rfl, nofun⟩) : Runs i s := by
  by_cases ho : i.operand = .implied
  · refine ⟨_, hexec.trans (runHandler_misuse (modifyMemory_none ?_)), .misused ⟨h.evaluates_eq, ho⟩⟩
    rw [ho]
    rfl
  · obtain ⟨a, ha, hnext⟩ := runHandler_modifyMemory_next ho f (fun v p => setZN (f v) p) s
    refine ⟨_, hexec.trans hnext, h.executes (fun huse => ho huse.2) ?frame ?sp (fun _ => rfl) ?wf⟩
    case frame =>
      rw [hregs, hflags, hstores, ha]
      exact frame_modifyMemory (getFlag_setZN_kept (f (s.read a)) s.p) a _ _
    case sp => exact (add_zero s.sp).symm
    case wf => exact s.write_wf a _

/-- The shift of A: the effect of a shift in Implied mode. -/
def shiftA (op : Bool → Byte → Byte × Bool) (t : State) : State :=
  (t.setA (op (t.flag .c) t.a).1).setP (shiftFlags (op (t.flag .c) t.a) t.p)

theorem registerEffect_shiftA (op : Bool → Byte → Byte × Bool) : RegisterEffect [.a] [.c, .z, .n] (shiftA op) :=
  registerEffect_setA_setP fun t => getFlag_shiftFlags_kept (op (t.flag .c) t.a) t.p

/-- A shift in Implied mode (R120 to R123). -/
theorem runHandler_shiftHandler_implied (op : Bool → Byte → Byte × Bool) (s : State) :
    runHandler Operand.implied.length (shiftHandler op .implied) s =
      .next ((shiftA op s.inHandler).setPC (s.pc + BitVec.ofNat 16 Operand.implied.length)) := by
  rw [runHandler_fallThrough (u := shiftA op s.inHandler) rfl]
  exact congrArg (fun pc => Host.Outcome.next ((shiftA op s.inHandler).setPC pc)) (Operand.pc_past .implied s.pc)

/-- A shift in any other mode (R124). -/
theorem runHandler_shiftHandler_next (op : Bool → Byte → Byte × Bool) {o : Operand} (ho : o ≠ .implied) (s : State) :
    ∃ a, effectiveAddress o s.inHandler = some a ∧
      runHandler o.length (shiftHandler op o) s =
        .next (((s.write a (op (s.flag .c) (s.read a)).1).setP (shiftFlags (op (s.flag .c) (s.read a)) s.p)).setPC
          (s.pc + BitVec.ofNat 16 o.length)) := by
  obtain ⟨himplied, -⟩ | ⟨a, -, ha, hnext⟩ := runHandler_shiftHandler o.length op o s
  · exact absurd himplied ho
  · exact ⟨a, ha, by rw [hnext, Operand.pc_past]⟩

/-- ASL, LSR, ROL and ROR. -/
theorem runs_shiftHandler {i : Instr} {s : State} (op : Bool → Byte → Byte × Bool)
    (hexec : exec i s = runHandler i.length (shiftHandler op i.operand) s)
    (hregs : i.regsWritten = (if i.operand = .implied then [.a] else []) := by rfl)
    (hflags : i.mnemonic.flagsWritten = [.c, .z, .n] := by rfl)
    (hstores : i.storesTo s = (effectiveAddress i.operand s.inHandler).toList := by rfl)
    (h : Handles i false 0 := by exact ⟨rfl, rfl, rfl, nofun⟩) : Runs i s := by
  by_cases ho : i.operand = .implied
  · have heffect : RegisterEffect i.regsWritten i.mnemonic.flagsWritten (shiftA op) := by
      rw [hregs, if_pos ho, hflags]
      exact registerEffect_shiftA op
    refine ⟨_, ?_, h.executes_registerEffect h.not_misused heffect s⟩
    rw [hexec, Instr.length, ho, runHandler_shiftHandler_implied]
  · obtain ⟨a, ha, hnext⟩ := runHandler_shiftHandler_next op ho s
    refine ⟨_, hexec.trans hnext, h.executes h.not_misused ?frame ?sp (fun _ => rfl) ?wf⟩
    case frame =>
      rw [hregs, if_neg ho, hflags, hstores, ha]
      exact frame_modifyMemory (getFlag_shiftFlags_kept _ s.p) a _ _
    case sp => exact (add_zero s.sp).symm
    case wf => exact s.write_wf a _

/-- A taken branch sets PC (R84). -/
theorem setsPC_of_branchTest {i : Instr} {s : State} {f : Flag} {v : Bool} {d : Byte}
    (htest : i.branchTest = some (f, v, d)) (htaken : s.flag f = v ∧ d ≠ 0) : i.setsPC s = true := by
  have hbranch : i.takenBranch s = true := by
    rw [Instr.takenBranch, htest]
    exact Bool.and_eq_true_iff.mpr ⟨beq_iff_eq.mpr htaken.1, bne_iff_ne.mpr htaken.2⟩
  rw [Instr.setsPC, hbranch, Bool.or_true]

/-- The eight branches. -/
theorem runs_branch {i : Instr} {s : State} (f : Flag) (v : Bool) (d : Byte) (hexec : exec i s = branch f v d s)
    (htest : i.branchTest = some (f, v, d) := by rfl) (hlen : i.length = 2 := by rfl)
    (hregs : i.regsWritten = [] := by rfl) (hflags : i.mnemonic.flagsWritten = [] := by rfl)
    (hstores : i.storesTo s = [] := by rfl)
    (h : Handles i false 0 := by exact ⟨rfl, rfl, rfl, nofun⟩) : Runs i s := by
  refine ⟨_, hexec.trans (branch_eq f v d s),
    h.executes h.not_misused ?frame ?sp ?pc id⟩
  case frame => rw [hregs, hflags, hstores]; exact frame_setPC s _
  case sp => exact (add_zero s.sp).symm
  case pc =>
    intro hsets
    have htaken : ¬ (s.flag f = v ∧ d ≠ 0) := fun htaken =>
      Bool.false_ne_true (hsets.symm.trans (setsPC_of_branchTest htest htaken))
    rw [State.setPC_pc, if_neg htaken, hlen]
    rfl

/-! ### The stack -/

/-- The state PHA leaves. -/
theorem exec_pha_next (s : State) : exec .pha s = .next (s.inHandler.push s.a) :=
  (exec_pha s).trans (implied_eq _ s)

/-- The state PHP leaves. -/
theorem exec_php_next (s : State) : exec .php s = .next (s.inHandler.push s.p) :=
  (exec_php s).trans (implied_eq _ s)

/-- The state PLA leaves. -/
theorem exec_pla_next (s : State) : exec .pla s = .next (loadA s.popped s.inHandler.afterPop) :=
  (exec_pla s).trans (implied_eq _ s)

/-- The state PLP leaves. -/
theorem exec_plp_next (s : State) : exec .plp s = .next (s.inHandler.afterPop.setP s.popped) :=
  (exec_plp s).trans (implied_eq _ s)

/-- What PHA and PHP change. -/
theorem frame_pushByte (s : State) (v : Byte) : Frame [.sp] [] [stackAddr s.sp] s (s.inHandler.push v) :=
  (frame_setPC s (s.pc + 1)).trans (frame_push s.inHandler v)

/-- What PLA changes. -/
theorem frame_pla (s : State) (v : Byte) :
    Frame [.a, .sp] [.z, .n] [stackAddr (s.sp + 1)] s (loadA v s.inHandler.afterPop) :=
  ((frame_setPC s (s.pc + 1)).trans (frame_afterPop s.inHandler)).trans (loads_loadA.frame v _) |>.mono
    (by simp) (by simp) (List.Subset.refl _)

/-- What PLP changes. -/
theorem frame_plp (s : State) (v : Byte) :
    Frame [.sp] [.c, .z, .i, .d, .b, .u, .v, .n] [stackAddr (s.sp + 1)] s (s.inHandler.afterPop.setP v) :=
  ((frame_setPC s (s.pc + 1)).trans (frame_afterPop s.inHandler)).trans (frame_setP_all _ v)

/-- What JSR changes: its two pushes go to slots next to each other. -/
theorem frame_jsr (s : State) (hi lo : Byte) (w : Addr) :
    Frame [.sp] [] [stackAddr s.sp, stackAddr (s.sp - 1)] s (((s.push hi).push lo).setPC w) :=
  ((frame_push s hi).trans (frame_push (s.push hi) lo)).trans (frame_setPC _ w) |>.mono (by simp) (by simp) (by simp)

/-- The second slot above SP. -/
theorem sp_add_one_add_one (v : Byte) : v + 1 + 1 = v + 2 := add_assoc v 1 1

/-- The third slot above SP. -/
theorem sp_add_two_add_one (v : Byte) : v + 2 + 1 = v + 3 := add_assoc v 2 1

/-- What RTI changes: its three pops read the slots above SP. -/
theorem frame_rti (s : State) (v : Byte) (w : Addr) :
    Frame [.sp] [.c, .z, .i, .d, .b, .u, .v, .n]
      [stackAddr (s.sp + 1), stackAddr (s.sp + 2), stackAddr (s.sp + 3)] s
      ((s.afterPop.setP v).afterPop.afterPop.setPC w) := by
  have hfirst := (frame_afterPop s).trans (frame_setP_all s.afterPop v)
  have hrest := (frame_afterPop (s.afterPop.setP v)).trans (frame_afterPop (s.afterPop.setP v).afterPop)
  have hslots : [stackAddr (s.sp + 1), stackAddr (s.sp + 1 + 1), stackAddr (s.sp + 1 + 1 + 1)] =
      [stackAddr (s.sp + 1), stackAddr (s.sp + 2), stackAddr (s.sp + 3)] := by
    rw [sp_add_one_add_one, sp_add_two_add_one]
  exact ((hfirst.trans hrest).trans (frame_setPC _ w)).mono (by simp) (by simp) (hslots ▸ List.Subset.refl _)

/-- PHA and PHP. -/
theorem runs_push {i : Instr} {s : State} {v : Byte} (hexec : exec i s = .next (s.inHandler.push v))
    (hregs : i.regsWritten = [.sp] := by rfl) (hflags : i.mnemonic.flagsWritten = [] := by rfl)
    (hstores : i.storesTo s = [stackAddr s.sp] := by rfl) (hlen : i.length = 1 := by rfl)
    (h : Handles i false (-1) := by exact ⟨rfl, rfl, rfl, nofun⟩) : Runs i s := by
  refine ⟨_, hexec, h.executes h.not_misused ?frame ?sp ?pc ?wf⟩
  case frame => rw [hregs, hflags, hstores]; exact frame_pushByte s v
  case sp => exact sub_eq_add_neg s.sp 1
  case pc => rw [hlen]; exact fun _ => rfl
  case wf => exact s.inHandler.push_wf v

theorem runs_pla (s : State) : Runs .pla s := by
  have h : Handles .pla false 1 := ⟨rfl, rfl, rfl, nofun⟩
  exact ⟨_, exec_pla_next s,
    h.executes h.not_misused (frame_pla s _) rfl (fun _ => rfl) s.inHandler.afterPop_wf⟩

theorem runs_plp (s : State) : Runs .plp s := by
  have h : Handles .plp false 1 := ⟨rfl, rfl, rfl, nofun⟩
  exact ⟨_, exec_plp_next s,
    h.executes h.not_misused (frame_plp s _) rfl (fun _ => rfl) s.inHandler.afterPop_wf⟩

theorem runs_jsr (w : Addr) (s : State) : Runs (.jsr w) s := by
  have h : Handles (.jsr w) false (-2) := ⟨rfl, rfl, rfl, nofun⟩
  refine ⟨_, exec_jsr_next w s, h.executes h.not_misused (frame_jsr s _ _ w) ?sp nofun fun hwf => ?wf⟩
  case sp => exact (sub_sub s.sp 1 1).trans (sub_eq_add_neg s.sp 2)
  case wf => exact (s.push _).push_wf _ (s.push_wf _ hwf)

theorem runs_rti (s : State) : Runs .rti s := by
  have h : Handles .rti false 3 := ⟨rfl, rfl, rfl, nofun⟩
  refine ⟨_, exec_rti_next s, h.executes h.not_misused (frame_rti s _ _) ?sp nofun fun hwf => ?wf⟩
  case sp => exact (congrArg (· + 1) (sp_add_one_add_one s.sp)).trans (sp_add_two_add_one s.sp)
  case wf => exact State.afterPop_wf _ (State.afterPop_wf (s.afterPop.setP s.popped) (s.afterPop_wf hwf))

/-! ### Every instruction -/

theorem runs_jmp (o : Operand) (s : State) : Runs (.jmp o) s := by
  by_cases ho : o = .implied
  · subst ho
    exact ⟨_, rfl, .misused ⟨rfl, rfl⟩⟩
  · obtain ⟨a, hnext⟩ | ⟨himplied, -⟩ := exec_jmp_cases o s
    · have h : Handles (.jmp o) true 0 := ⟨rfl, rfl, rfl, nofun⟩
      exact ⟨_, hnext, h.executes (fun huse => ho huse.2) (frame_setPC s a) (add_zero s.sp).symm nofun id⟩
    · exact absurd himplied ho

/-- BRK is the one instruction that writes `run` (R195). -/
theorem runs_brk (s : State) : Runs .brk s := by
  refine ⟨_, (exec_brk s).trans (implied_eq _ s), .completed rfl (not_misused_of_evaluatesAddress rfl) ?_⟩
  exact
    { regs_kept := fun r _ => by cases r <;> rfl
      flags_kept := fun _ _ => rfl
      memory_kept := fun _ _ => rfl
      run_eq := rfl
      fault_kept := rfl
      sp_eq := (add_zero s.sp).symm
      pc_eq := fun _ => rfl
      memory_wf := id }

/-- One of the twelve without a handler. -/
theorem runs_notImplemented {i : Instr} {s : State} (hexec : exec i s = notImplemented s)
    (himpl : i.mnemonic.unimplemented = true := by rfl) : Runs i s :=
  ⟨_, hexec, .unimplemented himpl⟩

/-- Every instruction, at every operand and in every state, answers a next state, in one of the three ways. -/
theorem exec_next (i : Instr) (s : State) : ∃ t, exec i s = .next t ∧ Executes i s t := by
  cases i with
  | adc o =>
    exact runs_withOperand (exec_adc o s) fun m => registerEffect_setA_setP fun t => getFlag_adcFlags_kept t.a m t.p
  | and o => exact runs_withOperand (exec_and o s) fun m => registerEffect_loadA fun t => t.a &&& m
  | ora o => exact runs_withOperand (exec_ora o s) fun m => registerEffect_loadA fun t => t.a ||| m
  | eor o => exact runs_withOperand (exec_eor o s) fun m => registerEffect_loadA fun t => t.a ^^^ m
  | lda o => exact runs_withOperand (exec_lda o s) fun m => registerEffect_loadA fun _ => m
  | ldx o => exact runs_withOperand (exec_ldx o s) fun m => registerEffect_loadX fun _ => m
  | ldy o => exact runs_withOperand (exec_ldy o s) fun m => registerEffect_loadY fun _ => m
  | bit o => exact runs_withOperand (exec_bit o s) fun m => registerEffect_setP fun t => getFlag_bitFlags_kept t.a m t.p
  | cmp o =>
    exact runs_withOperand (exec_cmp o s) fun m => registerEffect_setP fun t => getFlag_compareFlags_kept t.a m t.p
  | cpx o =>
    exact runs_withOperand (exec_cpx o s) fun m => registerEffect_setP fun t => getFlag_compareFlags_kept t.x m t.p
  | cpy o =>
    exact runs_withOperand (exec_cpy o s) fun m => registerEffect_setP fun t => getFlag_compareFlags_kept t.y m t.p
  | dec o => exact runs_modifyMemory (exec_dec o s)
  | inc o => exact runs_modifyMemory (exec_inc o s)
  | asl o => exact runs_shiftHandler aslOp (exec_asl o s)
  | lsr o => exact runs_shiftHandler lsrOp (exec_lsr o s)
  | rol o => exact runs_shiftHandler rolOp (exec_rol o s)
  | ror o => exact runs_shiftHandler rorOp (exec_ror o s)
  | bcc d => exact runs_branch .c false d (exec_bcc d s)
  | bcs d => exact runs_branch .c true d (exec_bcs d s)
  | beq d => exact runs_branch .z true d (exec_beq d s)
  | bmi d => exact runs_branch .n true d (exec_bmi d s)
  | bne d => exact runs_branch .z false d (exec_bne d s)
  | bpl d => exact runs_branch .n false d (exec_bpl d s)
  | bvc d => exact runs_branch .v false d (exec_bvc d s)
  | bvs d => exact runs_branch .v true d (exec_bvs d s)
  | dex => exact runs_implied (exec_dex s) (registerEffect_loadX fun t => t.x - 1)
  | dey => exact runs_implied (exec_dey s) (registerEffect_loadY fun t => t.y - 1)
  | inx => exact runs_implied (exec_inx s) (registerEffect_loadX fun t => t.x + 1)
  | iny => exact runs_implied (exec_iny s) (registerEffect_loadY fun t => t.y + 1)
  | tax => exact runs_implied (exec_tax s) (registerEffect_loadX fun t => t.a)
  | tay => exact runs_implied (exec_tay s) (registerEffect_loadY fun t => t.a)
  | clc => exact runs_implied (exec_clc s) (registerEffect_setP fun t => getFlag_putFlag_kept .c false t.p)
  | cld => exact runs_implied (exec_cld s) (registerEffect_setP fun t => getFlag_putFlag_kept .d false t.p)
  | cli => exact runs_implied (exec_cli s) (registerEffect_setP fun t => getFlag_putFlag_kept .i false t.p)
  | clv => exact runs_implied (exec_clv s) (registerEffect_setP fun t => getFlag_putFlag_kept .v false t.p)
  | nop => exact runs_implied (exec_nop s) (registerEffect_setP (q := State.p) fun _ _ _ => rfl)
  | brk => exact runs_brk s
  | jmp o => exact runs_jmp o s
  | jsr w => exact runs_jsr w s
  | pha => exact runs_push (exec_pha_next s)
  | php => exact runs_push (exec_php_next s)
  | pla => exact runs_pla s
  | plp => exact runs_plp s
  | rti => exact runs_rti s
  | sbc o => exact runs_notImplemented (exec_sbc o s)
  | sta o => exact runs_notImplemented (exec_sta o s)
  | stx o => exact runs_notImplemented (exec_stx o s)
  | sty o => exact runs_notImplemented (exec_sty o s)
  | sec => exact runs_notImplemented (exec_sec s)
  | sed => exact runs_notImplemented (exec_sed s)
  | sei => exact runs_notImplemented (exec_sei s)
  | tsx => exact runs_notImplemented (exec_tsx s)
  | txa => exact runs_notImplemented (exec_txa s)
  | txs => exact runs_notImplemented (exec_txs s)
  | tya => exact runs_notImplemented (exec_tya s)
  | rts => exact runs_notImplemented (exec_rts s)

/-- The same for a next state that is given. -/
theorem executes_of_exec {i : Instr} {s t : State} (h : exec i s = .next t) : Executes i s t := by
  obtain ⟨u, hu, hexecutes⟩ := exec_next i s
  obtain rfl : u = t := Host.Outcome.next.inj (hu.symm.trans h)
  exact hexecutes

end Sys2Proof.Machine
end

section
/-! PROOFS of the statements of spec/40_step_and_addressing.md section 1 and spec/60_exceptions.md: what a step does,
the fatal conditions, and the invariant that steps and host events keep. -/

namespace Sys2Proof.Machine

/-! ### What the step fetches -/

theorem fetchDecode_of_entry {s : State} {d : Descriptor} (h : optable (s.read s.pc) = some d) :
    fetchDecode s = .ok (d.instr (s.read (s.pc + 1)) (s.read (s.pc + 2))) := by
  rw [fetchDecode, fetchDecodeWith, decodeWith, h]

theorem fetchDecode_of_no_entry {s : State} (h : optable (s.read s.pc) = none) :
    fetchDecode s = .error (.unknownOpcode (s.read s.pc)) := by
  rw [fetchDecode, fetchDecodeWith, decodeWith, h]

theorem step_of_fetchDecode {s : State} {i : Instr} (hrun : s.run = .running) (h : fetchDecode s = .ok i) :
    step s = exec i s := by
  rw [step, hrun, h]

theorem step_of_no_entry {s : State} (hrun : s.run = .running) (h : optable (s.read s.pc) = none) :
    step s = .next (s.raise .unknownOpcode (s.read s.pc) s.pc) := by
  rw [step, hrun, fetchDecode_of_no_entry h]
  rfl

theorem step_of_not_running {s : State} (hrun : s.run ≠ .running) : step s = .next s := by
  rw [step]
  cases hr : s.run with
  | running => exact absurd hr hrun
  | halted | faulted => rfl

/-! ### The two raises of an instruction, and its completion -/

/-- None of the twelve is misused, whatever its operand. -/
theorem not_misused_of_unimplemented {i : Instr} (h : i.mnemonic.unimplemented = true) : ¬ i.misused :=
  not_misused_of_evaluatesAddress (Mnemonic.evaluatesAddress_of_unimplemented h)

theorem exec_of_unimplemented {i : Instr} (h : i.mnemonic.unimplemented = true) (s : State) :
    exec i s = .next (s.raiseHere .notImplemented) := by
  obtain ⟨t, hnext, hexecutes⟩ := exec_next i s
  cases hexecutes with
  | unimplemented => exact hnext
  | misused huse => exact absurd huse (not_misused_of_unimplemented h)
  | completed himpl => exact absurd (himpl.symm.trans h) Bool.false_ne_true

theorem exec_of_misused {i : Instr} (h : i.misused) (s : State) :
    exec i s = .next (s.raiseHere .addressingModeMisuse) := by
  obtain ⟨t, hnext, hexecutes⟩ := exec_next i s
  cases hexecutes with
  | unimplemented himpl => exact absurd h (not_misused_of_unimplemented himpl)
  | misused => exact hnext
  | completed _ huse => exact absurd h huse

theorem exec_completes {i : Instr} (himpl : i.mnemonic.unimplemented = false) (huse : ¬ i.misused) (s : State) :
    ∃ t, exec i s = .next t ∧ Completes i s t := by
  obtain ⟨t, hnext, hexecutes⟩ := exec_next i s
  cases hexecutes with
  | unimplemented h => exact absurd (himpl.symm.trans h) Bool.false_ne_true
  | misused h => exact absurd h huse
  | completed _ _ h => exact ⟨t, hnext, h⟩

/-- An instruction that completes does not enter FAULTED. -/
theorem Completes.run_ne_faulted {i : Instr} {s t : State} (h : Completes i s t) (hrun : s.run = .running) :
    t.run ≠ .faulted := by
  rw [h.run_eq, hrun]
  split <;> nofun

/-! ### The invariant -/

/-- What keeps the memory's form and the record, and neither enters nor leaves FAULTED, keeps the invariant. -/
theorem State.Inv.of_kept {s t : State} (h : s.Inv) (hmem : t.mem.wf) (hrun : t.run = .faulted ↔ s.run = .faulted)
    (hfault : t.fault = s.fault) : t.Inv where
  memory_canonical := hmem
  record_iff_faulted := by rw [hrun, hfault]; exact h.record_iff_faulted
  record_sound r hr := h.record_sound r (hfault.symm.trans hr)

/-- A raise whose record the opcode table justifies keeps the invariant. -/
theorem State.Inv.raise {s : State} (h : s.Inv) {k : FatalKind} {opc : Byte} {pc0 : Addr}
    (hsound : FaultRecord.sound ⟨k, opc, pc0⟩) : (s.raise k opc pc0).Inv where
  memory_canonical := h.memory_canonical
  record_iff_faulted := ⟨fun _ => rfl, fun _ => rfl⟩
  record_sound _ hr := Option.some.inj hr ▸ hsound

/-- A fetched instruction keeps the invariant: it completes, or raises NotImplemented on a byte of its mnemonic. -/
theorem State.Inv.exec_fetched {s t : State} {i : Instr} (h : s.Inv) (hrun : s.run = .running)
    (hfetch : fetchDecode s = .ok i) (hnext : exec i s = .next t) : t.Inv := by
  obtain ⟨d, hd, -, hmn, -, hwf, -⟩ := fetchDecode_ok hfetch
  cases executes_of_exec hnext with
  | unimplemented himpl => exact h.raise ⟨d, hd, hmn ▸ himpl⟩
  | misused huse => exact absurd huse (Instr.not_misused_of_wellFormed hwf)
  | completed _ _ hc =>
    refine h.of_kept (hc.memory_wf h.memory_canonical) (iff_of_false (hc.run_ne_faulted hrun) ?_) hc.fault_kept
    rw [hrun]
    nofun

/-! ### The host events -/

theorem State.resetEvent_mem (mode : Bool) (s : State) : (s.resetEvent mode).mem = s.mem := by
  cases mode <;> rfl

theorem State.resetEvent_fault (mode : Bool) (s : State) : (s.resetEvent mode).fault = s.fault := by
  cases mode <;> rfl

/-- HALTED goes to RUNNING and FAULTED stays (R254). -/
theorem State.resetEvent_run (mode : Bool) (s : State) :
    (s.resetEvent mode).run = if s.run = .faulted then .faulted else .running := by
  have hrun : (s.resetEvent mode).run = s.run.afterReset := by cases mode <;> rfl
  rw [hrun]
  cases s.run <;> rfl

/-- The bytes the loader writes change the memory only. -/
theorem State.writeBytes_eq (bytes : List Byte) (s : State) (a : Addr) :
    s.writeBytes a bytes = { s with mem := (s.writeBytes a bytes).mem } := by
  induction bytes generalizing s a with
  | nil => rfl
  | cons b rest ih => exact ih (s.write a b) (a + 1)

theorem State.writeBytes_wf (bytes : List Byte) (s : State) (a : Addr) (h : s.mem.wf) :
    (s.writeBytes a bytes).mem.wf := by
  induction bytes generalizing s a with
  | nil => exact h
  | cons b rest ih => exact ih (s.write a b) (a + 1) (s.write_wf a b h)

theorem State.writeWord_wf (s : State) (a w : Addr) (h : s.mem.wf) : (s.writeWord a w).mem.wf :=
  (s.write a _).write_wf _ _ (s.write_wf a _ h)

/-- The state a successful load leaves. -/
def State.loaded (s : State) (bytes : List Byte) : State :=
  (s.writeBytes Config.programOrigin bytes).writeWord Config.resetVector Config.programOrigin

theorem loadProgram_of_fits {bytes : List Byte} (h : bytes.length ≤ 0x8000) (s : State) :
    loadProgram bytes s = .ok (s.loaded bytes) :=
  if_neg (Nat.not_lt.mpr h)

theorem loadProgram_of_long {bytes : List Byte} (h : 0x8000 < bytes.length) (s : State) :
    loadProgram bytes s = .error .outOfRange :=
  if_pos h

theorem loadProgram_ok {bytes : List Byte} {s t : State} (h : loadProgram bytes s = .ok t) : t = s.loaded bytes := by
  obtain hlong | hfits := Nat.lt_or_ge 0x8000 bytes.length
  · rw [loadProgram_of_long hlong] at h
    exact nomatch h
  · rw [loadProgram_of_fits hfits] at h
    exact (Except.ok.inj h).symm

/-- A load changes the memory only. -/
theorem State.loaded_eq (s : State) (bytes : List Byte) : s.loaded bytes = { s with mem := (s.loaded bytes).mem } := by
  rw [State.loaded, State.writeBytes_eq]
  rfl

end Sys2Proof.Machine

namespace Sys2Proof.Proofs

open Machine

/-- Settles O15: a step changes nothing, executes a fetched instruction, or raises UnknownOpcode on a byte in no row. -/
theorem stepKeepsInvariant : Obligations.StepKeepsInvariant := by
  intro s t hinv hstep
  obtain ⟨-, rfl⟩ | ⟨hrun, i, hfetch, hnext⟩ | ⟨-, hnone, rfl⟩ := step_cases hstep
  · exact hinv
  · exact hinv.exec_fetched hrun hfetch hnext
  · exact hinv.raise hnone

/-- Settles O16: the memory is empty, and the core RUNNING without a record. -/
theorem resetMeetsInvariant : Obligations.ResetMeetsInvariant :=
  ⟨reset_memory_wf, iff_of_false nofun nofun, nofun⟩

/-- Settles O17: power-on gives a RUNNING core without a record; reset and the loader keep the record and whether the
core is FAULTED, and each of the loader's writes keeps the memory's form. -/
theorem hostEventsKeepInvariant : Obligations.HostEventsKeepInvariant := by
  refine ⟨fun m hm => ⟨hm, iff_of_false nofun nofun, nofun⟩, fun mode s hinv => ?reset, fun bytes s t hinv h => ?load⟩
  case reset =>
    have hrun : (s.resetEvent mode).run = .faulted ↔ s.run = .faulted := by
      rw [State.resetEvent_run]
      by_cases hfaulted : s.run = .faulted <;> simp [hfaulted]
    exact hinv.of_kept (s.resetEvent_mem mode ▸ hinv.memory_canonical) hrun (s.resetEvent_fault mode)
  case load =>
    have hwf : (s.loaded bytes).mem.wf := State.writeWord_wf _ _ _ (s.writeBytes_wf bytes _ hinv.memory_canonical)
    obtain rfl := loadProgram_ok h
    rw [State.loaded_eq]
    exact hinv.of_kept hwf Iff.rfl rfl

/-- Settles O5: the fetch decodes the same three bytes. -/
theorem stepRunsTheDecodedInstruction : Obligations.StepRunsTheDecodedInstruction := by
  intro s i rest hrun h
  obtain ⟨opc, tl, hbytes, hi, -, -⟩ := decode_ok h
  obtain ⟨rfl, rfl⟩ := List.cons.inj hbytes
  have hfetch : fetchDecode s = .ok i := hi
  obtain ⟨-, -, -, -, -, hwf, -⟩ := fetchDecode_ok hfetch
  exact ⟨hwf, step_of_fetchDecode hrun hfetch⟩

/-- Settles O6: the step of a HALTED or FAULTED core is the core itself. -/
theorem stoppedCoreIgnoresStep : Obligations.StoppedCoreIgnoresStep :=
  fun _ hrun => step_of_not_running hrun

/-- Settles O7: the fetch finds no entry, and the step is the raise. -/
theorem unknownOpcodeStops : Obligations.UnknownOpcodeStops :=
  fun _ hrun h => step_of_no_entry hrun h

/-- Settles O8: the twelve are the mnemonics without a handler. -/
theorem unimplementedMnemonicsRaise : Obligations.UnimplementedMnemonicsRaise := by
  intro o s i hi
  have hall : ∀ i ∈ [Instr.sbc o, .sta o, .stx o, .sty o, .sec, .sed, .sei, .tsx, .txa, .txs, .tya, .rts],
      i.mnemonic.unimplemented = true := by
    simp [Instr.mnemonic, Mnemonic.unimplemented]
  exact exec_of_unimplemented (hall i hi) s

/-- Settles O9: the byte's entry gives an instruction of the mnemonic. -/
theorem unimplementedByteStops : Obligations.UnimplementedByteStops := by
  intro s d hrun hd himpl
  rw [step_of_fetchDecode hrun (fetchDecode_of_entry hd)]
  refine exec_of_unimplemented ?_ s
  rwa [Descriptor.instr, Mnemonic.instr_mnemonic]

/-- Settles O10: a stopped core, a byte in no row, or an instruction; each answers a next state. -/
theorem everyStepAnswersNext : Obligations.EveryStepAnswersNext := by
  intro s
  by_cases hrun : s.run = .running
  · cases hd : optable (s.read s.pc) with
    | none => exact ⟨_, step_of_no_entry hrun hd⟩
    | some d =>
      obtain ⟨t, hnext, -⟩ := exec_next (d.instr (s.read (s.pc + 1)) (s.read (s.pc + 2))) s
      exact ⟨t, (step_of_fetchDecode hrun (fetchDecode_of_entry hd)).trans hnext⟩
  · exact ⟨s, step_of_not_running hrun⟩

/-- Settles O11: the core enters FAULTED by a raise only, since an instruction that completes does not fault it. -/
theorem fatalConditionChangesNothingElse : Obligations.FatalConditionChangesNothingElse := by
  intro s t hrun hstep hfaulted
  obtain ⟨hstopped, -⟩ | ⟨-, i, -, hnext⟩ | ⟨-, -, rfl⟩ := step_cases hstep
  · exact absurd hrun hstopped
  · cases executes_of_exec hnext with
    | unimplemented => exact ⟨.notImplemented, rfl⟩
    | misused => exact ⟨.addressingModeMisuse, rfl⟩
    | completed _ _ h => exact absurd hfaulted (h.run_ne_faulted hrun)
  · exact ⟨.unknownOpcode, rfl⟩

/-- Settles O12: an instruction with a handler completes at a pair of the table. -/
theorem pcAdvancesByLength : Obligations.PcAdvancesByLength := by
  intro i s hwf himpl hsets
  obtain ⟨t, hnext, h⟩ := exec_completes himpl (Instr.not_misused_of_wellFormed hwf) s
  refine ⟨t, hnext, ?_⟩
  rw [h.pc_eq hsets, BitVec.toNat_add, BitVec.toNat_ofNat, Nat.add_mod_mod]

/-- Settles O13: each of the pairs is a misuse, and a misuse is no row of the table. -/
theorem impliedOperandIsMisuse : Obligations.ImpliedOperandIsMisuse := by
  intro s i hi
  have hall : ∀ i ∈ [Instr.adc .implied, .and .implied, .ora .implied, .eor .implied, .bit .implied, .cmp .implied,
      .cpx .implied, .cpy .implied, .dec .implied, .inc .implied, .lda .implied, .ldx .implied, .ldy .implied,
      .jmp .implied], i.mnemonic.evaluatesAddress = true ∧ i.operand = .implied := by
    decide
  have huse : i.misused := hall i hi
  exact ⟨Bool.eq_false_iff.mpr fun hwf => Instr.not_misused_of_wellFormed hwf huse, exec_of_misused huse s⟩

/-- Settles O14: BRK completes, each of the twelve raises, and any other instruction of the table completes. -/
theorem runStateChangesOnlyAsStated : Obligations.RunStateChangesOnlyAsStated := by
  intro i s hwf
  obtain ⟨t, hnext, hexecutes⟩ := exec_next i s
  refine ⟨t, hnext, ?_⟩
  cases hexecutes with
  | unimplemented himpl =>
    have hbrk : i ≠ .brk := by
      rintro rfl
      exact nomatch himpl
    rw [if_neg hbrk, if_pos himpl]
    exact ⟨rfl, rfl⟩
  | misused huse => exact absurd huse (Instr.not_misused_of_wellFormed hwf)
  | completed himpl _ h =>
    have hrun := h.run_eq
    by_cases hbrk : i = .brk
    · rw [if_pos hbrk] at hrun ⊢
      exact ⟨hrun, h.fault_kept⟩
    · rw [if_neg hbrk] at hrun ⊢
      rw [himpl]
      exact ⟨hrun, h.fault_kept⟩

end Sys2Proof.Proofs
end

section
/-! PROOFS of the statements about what every instruction may change (spec/10_state.md sections 1, 3 and 4,
spec/20_memory.md section 1), and of the step through any Operation Table. -/

namespace Sys2Proof

/-- An instruction of a mnemonic is that mnemonic's instruction at some operand. -/
theorem Instr.eq_instr_of_mnemonic {i : Instr} {mn : Mnemonic} (h : i.mnemonic = mn) :
    ∃ o b1 b2, i = mn.instr o b1 b2 :=
  ⟨i.operand, _, _, h ▸ (i.instr_self _ _ (Mode.assemble_bytes i.operand [])).symm⟩

/-- BRK is the only instruction of its mnemonic. -/
theorem Instr.eq_brk_iff (i : Instr) : i = .brk ↔ i.mnemonic = .brk := by
  refine ⟨congrArg Instr.mnemonic, fun h => ?_⟩
  obtain ⟨_, _, _, rfl⟩ := Instr.eq_instr_of_mnemonic h
  rfl

/-- Only PLP and RTI write B and U, only they and CLI write I, and only they and CLD write D (R15). -/
theorem Mnemonic.storageFlags_not_mem_flagsWritten (mn : Mnemonic) (hplp : mn ≠ .plp) (hrti : mn ≠ .rti) :
    .b ∉ mn.flagsWritten ∧ .u ∉ mn.flagsWritten ∧ (mn ≠ .cli → .i ∉ mn.flagsWritten) ∧
      (mn ≠ .cld → .d ∉ mn.flagsWritten) := by
  revert hplp hrti
  cases mn <;> decide

/-- An instruction that can raise does not move SP (R19). -/
theorem Mnemonic.stackEffect_eq_zero {mn : Mnemonic} (h : mn.unimplemented = true ∨ mn.evaluatesAddress = true) :
    mn.stackEffect = 0 := by
  revert h
  cases mn <;> decide

/-- A mnemonic that evaluates an address takes its operand from it. -/
theorem Mnemonic.instr_operand_of_evaluatesAddress {mn : Mnemonic} (h : mn.evaluatesAddress = true) (o : Operand)
    (b1 b2 : Byte) : (mn.instr o b1 b2).operand = o := by
  rw [Mnemonic.evaluatesAddress, decide_eq_true_iff] at h
  simp only [List.mem_cons, List.not_mem_nil, or_false] at h
  obtain rfl | rfl | rfl | rfl | rfl | rfl | rfl | rfl | rfl | rfl | rfl | rfl | rfl | rfl := h <;> rfl

/-- Only the Implied mode assembles the Implied operand. -/
theorem Mode.assemble_eq_implied (m : Mode) (b1 b2 : Byte) : m.assemble b1 b2 = .implied ↔ m = .implied := by
  cases m <;> simp [Mode.assemble]

/-- The instruction of an entry is misused exactly when its mode is Implied and its mnemonic evaluates an address. -/
theorem Descriptor.instr_misused (d : Descriptor) (b1 b2 : Byte) :
    (d.instr b1 b2).misused ↔ d.mode = .implied ∧ d.mnemonic.evaluatesAddress = true := by
  rw [Instr.misused, Descriptor.instr, Mnemonic.instr_mnemonic, and_comm]
  refine and_congr_left fun haddr => ?_
  rw [Mnemonic.instr_operand_of_evaluatesAddress haddr, Mode.assemble_eq_implied]

end Sys2Proof

namespace Sys2Proof.Machine

/-! ### The frame of every instruction: a raise keeps what it does not record -/

section Kept

variable {i : Instr} {s t : State} (h : Executes i s t)
include h

theorem Executes.regs_kept {r : Reg} (hr : r ∉ i.regsWritten) : t.reg r = s.reg r := by
  cases h with
  | unimplemented | misused => cases r <;> rfl
  | completed _ _ h => exact h.regs_kept r hr

theorem Executes.flags_kept {f : Flag} (hf : f ∉ i.mnemonic.flagsWritten) : t.flag f = s.flag f := by
  cases h with
  | unimplemented | misused => rfl
  | completed _ _ h => exact h.flags_kept f hf

theorem Executes.memory_kept {a : Addr} (ha : a ∉ i.storesTo s) : t.read a = s.read a := by
  cases h with
  | unimplemented | misused => rfl
  | completed _ _ h => exact h.memory_kept a ha

theorem Executes.sp_eq : t.sp = s.sp + i.mnemonic.stackEffect := by
  cases h with
  | unimplemented himpl => rw [Mnemonic.stackEffect_eq_zero (.inl himpl), add_zero]; rfl
  | misused huse => rw [Mnemonic.stackEffect_eq_zero (.inr huse.1), add_zero]; rfl
  | completed _ _ h => exact h.sp_eq

end Kept

/-- The flag written by a one-byte instruction that writes one flag. -/
theorem flag_of_implied_setFlag {f : Flag} {v : Bool} {s t : State}
    (h : implied (fun t => t.setFlag f v) s = .next t) : t.flag f = v := by
  obtain ⟨u, hu, hflag, -⟩ := implied_setFlag_next f v s
  obtain rfl := Host.Outcome.next.inj (hu.symm.trans h)
  exact hflag

/-! ### The step through any table -/

/-- An instruction through a table, from its next state in the model. -/
theorem execWithLength_of_exec {i : Instr} {s t : State} (h : exec i s = .next t) (len : Nat) :
    execWithLength len i s =
      if t.run = .faulted ∨ i.setsPC s = true then .next t else .next (t.setPC (s.pc + BitVec.ofNat 16 len)) := by
  rw [execWithLength, h]

/-- A raise is a raise through any table. -/
theorem execWithLength_of_raise {i : Instr} {s : State} {k : FatalKind} (h : exec i s = .next (s.raiseHere k))
    (len : Nat) : execWithLength len i s = .next (s.raiseHere k) := by
  rw [execWithLength_of_exec h, if_pos (.inl rfl)]

/-- With the instruction's own length the table adds nothing. -/
theorem execWithLength_length (i : Instr) (s : State) : execWithLength i.length i s = exec i s := by
  obtain ⟨t, hnext, hexecutes⟩ := exec_next i s
  cases hexecutes with
  | unimplemented | misused => rw [execWithLength_of_raise hnext, hnext]
  | completed _ _ h =>
    rw [execWithLength_of_exec hnext, hnext]
    by_cases hset : t.run = .faulted ∨ i.setsPC s = true
    · rw [if_pos hset]
    · rw [if_neg hset, ← h.pc_eq (by simpa using (not_or.mp hset).2), State.setPC_self]

/-- An instruction that completes in a running core completes through any table, at the length given. -/
theorem execWithLength_completes {i : Instr} {s t : State} (hnext : exec i s = .next t) (h : Completes i s t)
    (hrun : s.run = .running) (len : Nat) :
    ∃ u, execWithLength len i s = .next u ∧ u.run = t.run ∧ u.fault = t.fault ∧
      (i.setsPC s = false → u.pc = s.pc + BitVec.ofNat 16 len) := by
  rw [execWithLength_of_exec hnext]
  by_cases hset : i.setsPC s = true
  · exact ⟨t, if_pos (.inr hset), rfl, rfl, fun hfalse => absurd (hfalse.symm.trans hset) Bool.false_ne_true⟩
  · exact ⟨_, if_neg (not_or.mpr ⟨h.run_ne_faulted hrun, hset⟩), rfl, rfl, fun _ => rfl⟩

theorem stepWith_of_entry {table : Byte → Option Descriptor} {s : State} {d : Descriptor} (hrun : s.run = .running)
    (h : table (s.read s.pc) = some d) :
    stepWith table s = execWithLength d.length (d.instr (s.read (s.pc + 1)) (s.read (s.pc + 2))) s := by
  rw [stepWith, hrun, h]

theorem stepWith_of_no_entry {table : Byte → Option Descriptor} {s : State} (hrun : s.run = .running)
    (h : table (s.read s.pc) = none) : stepWith table s = .next (s.raise .unknownOpcode (s.read s.pc) s.pc) := by
  rw [stepWith, hrun, h]

theorem stepWith_of_not_running (table : Byte → Option Descriptor) {s : State} (hrun : s.run ≠ .running) :
    stepWith table s = .next s := by
  rw [stepWith]
  cases hr : s.run with
  | running => exact absurd hr hrun
  | halted | faulted => rfl

end Sys2Proof.Machine

namespace Sys2Proof.Proofs

open Machine

/-- Settles O18: a raise keeps all of P, and a completion the flags outside the mnemonic's row. -/
theorem flagsWrittenOnlyAsTabled : Obligations.FlagsWrittenOnlyAsTabled := by
  intro i s
  obtain ⟨t, hnext, h⟩ := exec_next i s
  exact ⟨t, hnext, fun _ => h.flags_kept⟩

/-- Settles O19: CLI and CLD clear their flag, and no other instruction but PLP and RTI writes one of the four. -/
theorem storageFlagsSetOnlyByPull : Obligations.StorageFlagsSetOnlyByPull := by
  intro i s hplp hrti
  obtain ⟨t, hnext, h⟩ := exec_next i s
  have hplp' : i.mnemonic ≠ .plp := fun hmn => by
    obtain ⟨_, _, _, rfl⟩ := Instr.eq_instr_of_mnemonic hmn
    exact hplp rfl
  have hrti' : i.mnemonic ≠ .rti := fun hmn => by
    obtain ⟨_, _, _, rfl⟩ := Instr.eq_instr_of_mnemonic hmn
    exact hrti rfl
  obtain ⟨hb, hu, hi, hd⟩ := i.mnemonic.storageFlags_not_mem_flagsWritten hplp' hrti'
  refine ⟨t, hnext, ?interrupt, ?decimal, h.flags_kept hb, h.flags_kept hu⟩
  case interrupt =>
    by_cases hcli : i.mnemonic = .cli
    · obtain ⟨_, _, _, rfl⟩ := Instr.eq_instr_of_mnemonic hcli
      have hclear : t.flag .i = false := flag_of_implied_setFlag hnext
      exact fun hset => absurd (hclear.symm.trans hset) Bool.false_ne_true
    · exact fun hset => (h.flags_kept (hi hcli)).symm.trans hset
  case decimal =>
    by_cases hcld : i.mnemonic = .cld
    · obtain ⟨_, _, _, rfl⟩ := Instr.eq_instr_of_mnemonic hcld
      have hclear : t.flag .d = false := flag_of_implied_setFlag hnext
      exact fun hset => absurd (hclear.symm.trans hset) Bool.false_ne_true
    · exact fun hset => (h.flags_kept (hd hcld)).symm.trans hset

/-- Settles O20: a raise keeps every register, and a completion those outside the instruction's row. -/
theorem registersWrittenOnlyAsTabled : Obligations.RegistersWrittenOnlyAsTabled := by
  intro i s
  obtain ⟨t, hnext, h⟩ := exec_next i s
  exact ⟨t, hnext, fun _ => h.regs_kept⟩

/-- Settles O21: an instruction that raises is no stack instruction, and one that completes moves SP by its effect. -/
theorem stackPointerMovesByStackEffect : Obligations.StackPointerMovesByStackEffect := by
  intro i s
  obtain ⟨t, hnext, h⟩ := exec_next i s
  exact ⟨t, hnext, by rw [h.sp_eq, BitVec.toNat_add]⟩

/-- Settles O22: a raise keeps the memory, and a completion what the instruction does not store to. -/
theorem memoryWrittenOnlyAsTabled : Obligations.MemoryWrittenOnlyAsTabled := by
  intro i s
  obtain ⟨t, hnext, h⟩ := exec_next i s
  exact ⟨t, hnext, fun _ => h.memory_kept⟩

/-- Settles O58: the entry of the spec's table has the length of its instruction, with which the table adds nothing. -/
theorem stepWithSpecTableIsStep : Obligations.StepWithSpecTableIsStep := by
  intro s
  by_cases hrun : s.run = .running
  · cases hd : optable (s.read s.pc) with
    | none => rw [stepWith_of_no_entry hrun hd, step_of_no_entry hrun hd]
    | some d =>
      have hfetch := fetchDecode_of_entry hd
      obtain ⟨d', hd', -, -, -, -, hlen⟩ := fetchDecode_ok hfetch
      obtain rfl := Option.some.inj (hd.symm.trans hd')
      rw [stepWith_of_entry hrun hd, step_of_fetchDecode hrun hfetch, ← hlen, execWithLength_length]
  · rw [stepWith_of_not_running optable hrun, step_of_not_running hrun]

/-- Settles O59: the entry's instruction raises, is misused or completes by its mnemonic and its mode, and only a
completion depends on the length. -/
theorem anyTableFollowsTheStep : Obligations.AnyTableFollowsTheStep := by
  intro table s hrun
  cases hd : table (s.read s.pc) with
  | none => exact stepWith_of_no_entry hrun hd
  | some d =>
    obtain ⟨i, hi⟩ : ∃ i, i = d.instr (s.read (s.pc + 1)) (s.read (s.pc + 2)) := ⟨_, rfl⟩
    have hstep := stepWith_of_entry hrun hd
    have huse := d.instr_misused (s.read (s.pc + 1)) (s.read (s.pc + 2))
    have hmn : i.mnemonic = d.mnemonic := hi ▸ Mnemonic.instr_mnemonic _ _ _ _
    rw [Mnemonic.evaluatesAddress, decide_eq_true_iff, ← hi] at huse
    rw [← hi] at hstep
    change if _ then _ else _
    by_cases himpl : d.mnemonic.unimplemented = true
    · rw [if_pos himpl, hstep]
      exact execWithLength_of_raise (exec_of_unimplemented (hmn ▸ himpl) s) _
    rw [if_neg himpl]
    by_cases hmisuse : d.mode = .implied ∧ d.mnemonic ∈ [Mnemonic.adc, .and, .ora, .eor, .bit, .cmp, .cpx, .cpy, .dec,
        .inc, .lda, .ldx, .ldy, .jmp]
    · rw [if_pos hmisuse, hstep]
      exact execWithLength_of_raise (exec_of_misused (huse.mpr hmisuse) s) _
    rw [if_neg hmisuse, hstep, ← hi]
    obtain ⟨t, hnext, hc⟩ := exec_completes (by rw [hmn]; exact Bool.eq_false_iff.mpr himpl) (mt huse.mp hmisuse) s
    obtain ⟨u, hu, hurun, hufault, hpc⟩ := execWithLength_completes hnext hc hrun d.length
    refine ⟨u, hu, ?run, hufault.trans hc.fault_kept, hpc⟩
    case run => rw [hurun, hc.run_eq, hrun, ← hmn, if_congr i.eq_brk_iff rfl rfl]

end Sys2Proof.Proofs
end

section
/-! PROOFS of the statement of spec/10_state.md section 3 that I, D, B and U have no effect but on PHP: two runs from
states that are apart in these bits only stay so, handler by handler. -/

namespace Sys2Proof.Machine

/-! ### States apart in I, D, B and U only -/

/-- Two values of P with the same C, Z, V and N. -/
def Agree (p q : Byte) : Prop := ∀ f ∈ [Flag.c, .z, .v, .n], getFlag f q = getFlag f p

theorem agree_putFlag {p q : Byte} (h : Agree p q) (f : Flag) (v : Bool) : Agree (putFlag f v p) (putFlag f v q) := by
  intro g hg
  rw [getFlag_putFlag, getFlag_putFlag, h g hg]

theorem agree_setZN {p q : Byte} (h : Agree p q) (v : Byte) : Agree (setZN v p) (setZN v q) :=
  agree_putFlag (agree_putFlag h .z _) .n _

theorem agree_shiftFlags {p q : Byte} (h : Agree p q) (r : Byte × Bool) : Agree (shiftFlags r p) (shiftFlags r q) :=
  agree_setZN (agree_putFlag h .c _) r.1

theorem agree_compareFlags {p q : Byte} (h : Agree p q) (r m : Byte) :
    Agree (compareFlags r m p) (compareFlags r m q) :=
  agree_setZN (agree_putFlag h .c _) (r - m)

theorem agree_bitFlags {p q : Byte} (h : Agree p q) (a m : Byte) : Agree (bitFlags a m p) (bitFlags a m q) :=
  agree_putFlag (agree_putFlag (agree_putFlag h .z _) .n _) .v _

/-- ADC reads the Carry, which is the same. -/
theorem agree_adcFlags {p q : Byte} (h : Agree p q) (a m : Byte) : Agree (adcFlags a m p) (adcFlags a m q) := by
  rw [adcFlags, adcFlags, h .c (by decide)]
  exact agree_setZN (agree_putFlag (agree_putFlag h .c _) .v _) _

/-- Two states that differ at most in I, D, B and U. -/
def StorageApart (s s' : State) : Prop := ∃ q, s' = s.setP q ∧ Agree s.p q

/-- An effect takes states apart in I, D, B and U only to such states. -/
def Respects (f : State → State) : Prop := ∀ s q, Agree s.p q → StorageApart (f s) (f (s.setP q))

/-- What the two handlers answer from states apart in I, D, B and U only. -/
inductive HandledApart : Handled → Handled → Prop where
  | fallThrough {t t' : State} (h : StorageApart t t') : HandledApart (.fallThrough t) (.fallThrough t')
  | jumped {t t' : State} (h : StorageApart t t') : HandledApart (.jumped t) (.jumped t')
  | misuse : HandledApart .misuse .misuse

/-- The two outcomes are next states apart in I, D, B and U only. -/
def ResultApart (r r' : Result) : Prop := ∃ t t', r = .next t ∧ r' = .next t' ∧ StorageApart t t'

/-! ### Handlers -/

theorem memoryOperand_setP (o : Operand) (s : State) (q : Byte) : memoryOperand o (s.setP q) = memoryOperand o s := by
  cases o <;> rfl

theorem effectiveAddress_setP (o : Operand) (s : State) (q : Byte) :
    effectiveAddress o (s.setP q) = effectiveAddress o s := by
  cases o <;> rfl

theorem modifyMemory_apart {f : Byte → Byte} {g g' : Byte → Byte → Byte} {s : State} {q : Byte}
    (hg : ∀ v, Agree (g v s.p) (g' v q)) (o : Operand) :
    HandledApart (modifyMemory o f g s) (modifyMemory o f g' (s.setP q)) := by
  rw [modifyMemory, modifyMemory, effectiveAddress_setP]
  cases effectiveAddress o s with
  | some a => exact .fallThrough ⟨_, rfl, hg (s.read a)⟩
  | none => exact .misuse

section Handlers

variable {s : State} {q : Byte} (hq : Agree s.p q)
include hq

theorem runHandler_apart {h : State → Handled} (hh : HandledApart (h s.inHandler) (h (s.inHandler.setP q)))
    (len : Nat) : ResultApart (runHandler len h s) (runHandler len h (s.setP q)) := by
  generalize hu : h s.inHandler = u at hh
  generalize hu' : h (s.inHandler.setP q) = u' at hh
  cases hh with
  | fallThrough ht =>
    obtain ⟨p, rfl, hp⟩ := ht
    exact ⟨_, _, runHandler_fallThrough hu, runHandler_fallThrough hu', p, rfl, hp⟩
  | jumped ht => exact ⟨_, _, runHandler_jumped hu, runHandler_jumped hu', ht⟩
  | misuse => exact ⟨_, _, runHandler_misuse hu, runHandler_misuse hu', q, rfl, hq⟩

theorem withOperand_apart {k : Byte → State → State} (hk : ∀ m, Respects (k m)) (o : Operand) :
    HandledApart (withOperand o k s) (withOperand o k (s.setP q)) := by
  rw [withOperand, withOperand, memoryOperand_setP]
  cases memoryOperand o s with
  | some m => exact .fallThrough (hk m s q hq)
  | none => exact .misuse

/-- A shift reads the Carry, which is the same. -/
theorem shiftHandler_apart (op : Bool → Byte → Byte × Bool) (o : Operand) :
    HandledApart (shiftHandler op o s) (shiftHandler op o (s.setP q)) := by
  have hcarry : (s.setP q).flag .c = s.flag .c := hq .c (by decide)
  rw [shiftHandler_eq, shiftHandler_eq, hcarry]
  by_cases ho : o = .implied
  · rw [if_pos ho, if_pos ho]
    exact .fallThrough ⟨_, rfl, agree_shiftFlags hq _⟩
  · rw [if_neg ho, if_neg ho]
    exact modifyMemory_apart (fun _ => agree_shiftFlags hq _) o

theorem implied_apart {i : Instr} {f : State → State} (hexec : ∀ t, exec i t = implied f t) (hf : Respects f) :
    ResultApart (exec i s) (exec i (s.setP q)) := by
  rw [hexec, hexec]
  exact runHandler_apart hq (h := fun t => .fallThrough (f t)) (.fallThrough (hf s.inHandler q hq)) _

/-- A branch tests a flag that is the same. -/
theorem branch_apart {f : Flag} (hf : f ∈ [Flag.c, .z, .v, .n]) (v : Bool) (d : Byte) :
    ResultApart (branch f v d s) (branch f v d (s.setP q)) := by
  have hflag : (s.setP q).flag f = s.flag f := hq f hf
  rw [branch_eq, branch_eq, hflag]
  exact ⟨_, _, rfl, rfl, q, rfl, hq⟩

theorem execJmp_apart (o : Operand) : ResultApart (exec (.jmp o) s) (exec (.jmp o) (s.setP q)) := by
  rw [exec_jmp, exec_jmp]
  refine runHandler_apart hq ?_ _
  simp only [effectiveAddress_setP]
  cases effectiveAddress o s.inHandler with
  | some a => exact .jumped ⟨q, rfl, hq⟩
  | none => exact .misuse

end Handlers

/-! ### Effects -/

theorem respects_loadA {v : State → Byte} (hv : ∀ s q, v (s.setP q) = v s) : Respects fun t => loadA (v t) t :=
  fun s q hq => ⟨setZN (v s) q, congrArg (loadA · (s.setP q)) (hv s q), agree_setZN hq (v s)⟩

theorem respects_loadX {v : State → Byte} (hv : ∀ s q, v (s.setP q) = v s) : Respects fun t => loadX (v t) t :=
  fun s q hq => ⟨setZN (v s) q, congrArg (loadX · (s.setP q)) (hv s q), agree_setZN hq (v s)⟩

theorem respects_loadY {v : State → Byte} (hv : ∀ s q, v (s.setP q) = v s) : Respects fun t => loadY (v t) t :=
  fun s q hq => ⟨setZN (v s) q, congrArg (loadY · (s.setP q)) (hv s q), agree_setZN hq (v s)⟩

theorem respects_adc (m : Byte) :
    Respects fun t => (t.setA (adcResult t.a m (t.flag .c))).setP (adcFlags t.a m t.p) := by
  intro s q hq
  have hcarry : (s.setP q).flag .c = s.flag .c := hq .c (by decide)
  exact ⟨adcFlags s.a m q, by simp only [hcarry]; rfl, agree_adcFlags hq s.a m⟩

theorem respects_setP {g : State → Byte → Byte} (hcomm : ∀ s q, g (s.setP q) = g s)
    (hg : ∀ s q, Agree s.p q → Agree (g s s.p) (g s q)) : Respects fun t => t.setP (g t t.p) :=
  fun s q hq => ⟨g s q, congrArg (fun k : Byte → Byte => s.setP (k q)) (hcomm s q), hg s q hq⟩

theorem respects_setFlag (f : Flag) (v : Bool) : Respects fun t => t.setFlag f v :=
  fun _ q hq => ⟨putFlag f v q, rfl, agree_putFlag hq f v⟩

/-- An effect that reads and writes no flag. -/
theorem respects_of_commutes {f : State → State} (hcomm : ∀ s q, f (s.setP q) = (f s).setP q)
    (hp : ∀ s, (f s).p = s.p) : Respects f :=
  fun s q hq => ⟨q, hcomm s q, (hp s).symm ▸ hq⟩

/-- A pull of P or A from memory that is the same. -/
theorem respects_plp : Respects fun t => t.afterPop.setP t.popped :=
  fun s _ _ => ⟨s.popped, rfl, fun _ _ => rfl⟩

theorem respects_pla : Respects fun t => loadA t.popped t.afterPop :=
  fun s q hq => ⟨setZN s.popped q, rfl, agree_setZN hq s.popped⟩

/-! ### Every instruction but PHP -/

theorem exec_apart {i : Instr} (hphp : i ≠ .php) {s : State} {q : Byte} (hq : Agree s.p q) :
    ResultApart (exec i s) (exec i (s.setP q)) := by
  have hraise : ResultApart (notImplemented s) (notImplemented (s.setP q)) := ⟨_, _, rfl, rfl, q, rfl, hq⟩
  have operand {k : Byte → State → State} (o : Operand) (hk : ∀ m, Respects (k m)) :=
    runHandler_apart (s := s) hq (withOperand_apart (s := s.inHandler) hq hk o) o.length
  have shift (op : Bool → Byte → Byte × Bool) (o : Operand) :=
    runHandler_apart hq (shiftHandler_apart (s := s.inHandler) hq op o) o.length
  cases i with
  | adc o => exact operand o respects_adc
  | and o => exact operand o fun m => respects_loadA (v := fun t => t.a &&& m) fun _ _ => rfl
  | ora o => exact operand o fun m => respects_loadA (v := fun t => t.a ||| m) fun _ _ => rfl
  | eor o => exact operand o fun m => respects_loadA (v := fun t => t.a ^^^ m) fun _ _ => rfl
  | lda o => exact operand o fun m => respects_loadA (v := fun _ => m) fun _ _ => rfl
  | ldx o => exact operand o fun m => respects_loadX (v := fun _ => m) fun _ _ => rfl
  | ldy o => exact operand o fun m => respects_loadY (v := fun _ => m) fun _ _ => rfl
  | bit o =>
    exact operand o fun m => respects_setP (g := fun t => bitFlags t.a m) (fun _ _ => rfl)
      fun s _ h => agree_bitFlags h s.a m
  | cmp o =>
    exact operand o fun m => respects_setP (g := fun t => compareFlags t.a m) (fun _ _ => rfl)
      fun s _ h => agree_compareFlags h s.a m
  | cpx o =>
    exact operand o fun m => respects_setP (g := fun t => compareFlags t.x m) (fun _ _ => rfl)
      fun s _ h => agree_compareFlags h s.x m
  | cpy o =>
    exact operand o fun m => respects_setP (g := fun t => compareFlags t.y m) (fun _ _ => rfl)
      fun s _ h => agree_compareFlags h s.y m
  | dec o => exact runHandler_apart hq (modifyMemory_apart (s := s.inHandler) (fun _ => agree_setZN hq _) o) _
  | inc o => exact runHandler_apart hq (modifyMemory_apart (s := s.inHandler) (fun _ => agree_setZN hq _) o) _
  | asl o => exact shift aslOp o
  | lsr o => exact shift lsrOp o
  | rol o => exact shift rolOp o
  | ror o => exact shift rorOp o
  | bcc d => exact branch_apart hq (f := .c) (by decide) false d
  | bcs d => exact branch_apart hq (f := .c) (by decide) true d
  | beq d => exact branch_apart hq (f := .z) (by decide) true d
  | bmi d => exact branch_apart hq (f := .n) (by decide) true d
  | bne d => exact branch_apart hq (f := .z) (by decide) false d
  | bpl d => exact branch_apart hq (f := .n) (by decide) false d
  | bvc d => exact branch_apart hq (f := .v) (by decide) false d
  | bvs d => exact branch_apart hq (f := .v) (by decide) true d
  | dex => exact implied_apart hq exec_dex (respects_loadX (v := fun t => t.x - 1) fun _ _ => rfl)
  | dey => exact implied_apart hq exec_dey (respects_loadY (v := fun t => t.y - 1) fun _ _ => rfl)
  | inx => exact implied_apart hq exec_inx (respects_loadX (v := fun t => t.x + 1) fun _ _ => rfl)
  | iny => exact implied_apart hq exec_iny (respects_loadY (v := fun t => t.y + 1) fun _ _ => rfl)
  | tax => exact implied_apart hq exec_tax (respects_loadX (v := State.a) fun _ _ => rfl)
  | tay => exact implied_apart hq exec_tay (respects_loadY (v := State.a) fun _ _ => rfl)
  | clc => exact implied_apart hq exec_clc (respects_setFlag .c false)
  | cld => exact implied_apart hq exec_cld (respects_setFlag .d false)
  | cli => exact implied_apart hq exec_cli (respects_setFlag .i false)
  | clv => exact implied_apart hq exec_clv (respects_setFlag .v false)
  | nop => exact implied_apart hq exec_nop (respects_of_commutes (fun _ _ => rfl) fun _ => rfl)
  | brk => exact implied_apart hq exec_brk (respects_of_commutes (fun _ _ => rfl) fun _ => rfl)
  | pha => exact implied_apart hq exec_pha (respects_of_commutes (fun _ _ => rfl) fun _ => rfl)
  | pla => exact implied_apart hq exec_pla respects_pla
  | plp => exact implied_apart hq exec_plp respects_plp
  | jmp o => exact execJmp_apart hq o
  | jsr w => exact ⟨_, _, exec_jsr_next w s, exec_jsr_next w (s.setP q), q, rfl, hq⟩
  | rti => exact ⟨_, _, exec_rti_next s, exec_rti_next (s.setP q), s.popped, rfl, fun _ _ => rfl⟩
  | php => exact absurd rfl hphp
  | sbc | sta | stx | sty | sec | sed | sei | tsx | txa | txs | tya | rts => exact hraise

end Sys2Proof.Machine

namespace Sys2Proof.Proofs

open Machine

/-- Settles O23: the handlers read no flag but C, Z, V and N, and what they write to these does not depend on others. -/
theorem storageFlagsHaveNoEffect : Obligations.StorageFlagsHaveNoEffect := by
  intro i s q hphp hq
  obtain ⟨t, _, hnext, hnext', q', rfl, hq'⟩ := exec_apart hphp hq
  exact ⟨t, q', hnext, hnext', hq'⟩

end Sys2Proof.Proofs
end

section
/-! PROOFS of the statements of spec/41_adc_logic.md on ADC, spec/42_shift_rotate.md, spec/43_branches.md and
spec/45_incdec_load_transfer.md section 1: 8-bit results and flags as unbounded arithmetic. -/

namespace Sys2Proof.Machine

/-! ### ADC (R110) -/

theorem adcResult_toNat (a m : Byte) (c : Bool) :
    (adcResult a m c).toNat = (a.toNat + m.toNat + c.toNat) % 256 :=
  BitVec.toNat_ofNat _ _

/-- Masking with 0x80 tests bit 7. -/
theorem and_0x80_ne_zero_iff (v : Byte) : v &&& 0x80 ≠ 0 ↔ v.msb = true := by
  have hmask : v &&& 0x80 = if v.getLsbD 7 then BitVec.twoPow 8 7 else 0 := BitVec.and_twoPow v 7
  rw [hmask, BitVec.msb_eq_getLsbD_last]
  cases v.getLsbD 7 <;> decide

/-- A byte read as a signed number. -/
theorem toInt_eq (v : Byte) : v.toInt = if v.msb then (v.toNat : Int) - 256 else v.toNat :=
  BitVec.toInt_eq_msb_cond v

/-- Overflow: both terms have the sign that the result has not, which is when the signed sum leaves its range. -/
theorem adcOverflow_iff (a m : Byte) (c : Bool) : adcOverflow a m c = true ↔
    a.toInt + m.toInt + c.toNat < -128 ∨ 127 < a.toInt + m.toInt + c.toNat := by
  have hsum := adcResult_toNat a m c
  have ha : a.toNat < 256 := a.isLt
  have hm : m.toNat < 256 := m.isLt
  have hc : c.toNat ≤ 1 := c.toNat_le
  rw [adcOverflow, decide_eq_true_iff, and_0x80_ne_zero_iff, BitVec.msb_and, BitVec.msb_xor, BitVec.msb_xor, toInt_eq a,
    toInt_eq m]
  simp only [BitVec.msb_eq_decide, Bool.and_eq_true, bne_iff_ne, decide_eq_true_eq, ne_eq, decide_eq_decide]
  split <;> split <;> omega

/-- ADC outside Implied mode. -/
theorem execAdc_next {o : Operand} (ho : o ≠ .implied) (s : State) :
    ∃ m, memoryOperand o s.inHandler = some m ∧ exec (.adc o) s =
      .next (((s.setA (adcResult s.a m (s.flag .c))).setP (adcFlags s.a m s.p)).setPC
        (s.pc + BitVec.ofNat 16 o.length)) :=
  runHandler_withOperand_next (k := fun m t => (t.setA (adcResult t.a m (t.flag .c))).setP (adcFlags t.a m t.p)) ho
    (fun _ _ => rfl) s

/-! ### Shifts and rotates (R120 to R123) -/

theorem shiftLeft_one_toNat (v : Byte) : (v <<< 1).toNat = v.toNat * 2 % 256 := by
  rw [BitVec.toNat_shiftLeft, Nat.shiftLeft_eq]

theorem shiftRight_one_toNat (v : Byte) : (v >>> 1).toNat = v.toNat / 2 := by
  rw [BitVec.toNat_ushiftRight, Nat.shiftRight_eq_div_pow]

/-- The bit shifted out on the left. -/
theorem bit7_toNat (v : Byte) : (v.getLsbD 7).toNat = v.toNat / 128 := by
  have hv : v.toNat < 256 := v.isLt
  have hbit : (v.getLsbD 7).toNat = v.toNat / 2 ^ 7 % 2 := Nat.toNat_testBit v.toNat 7
  omega

/-- The bit shifted out on the right. -/
theorem bit0_toNat (v : Byte) : (v.getLsbD 0).toNat = v.toNat % 2 := by
  have hbit : (v.getLsbD 0).toNat = v.toNat / 2 ^ 0 % 2 := Nat.toNat_testBit v.toNat 0
  omega

/-- The incoming Carry fills the vacated bit 0. -/
theorem rolOp_toNat (c : Bool) (v : Byte) : (rolOp c v).1.toNat = v.toNat * 2 % 256 + c.toNat := by
  have heven : v.toNat * 2 % 256 = 2 ^ 1 * (v.toNat % 128) := by omega
  have hcarry : (if c then 0x01 else 0x00 : Byte).toNat = c.toNat := by cases c <;> rfl
  rw [rolOp, BitVec.toNat_or, shiftLeft_one_toNat, hcarry, heven, Nat.two_pow_add_eq_or_of_lt c.toNat_lt]

/-- The incoming Carry fills the vacated bit 7. -/
theorem rorOp_toNat (c : Bool) (v : Byte) : (rorOp c v).1.toNat = v.toNat / 2 + c.toNat * 128 := by
  have hhalf : v.toNat / 2 < 2 ^ 7 := by
    have hv : v.toNat < 256 := v.isLt
    omega
  have hcarry : (if c then 0x80 else 0x00 : Byte).toNat = 2 ^ 7 * c.toNat := by cases c <;> rfl
  rw [rorOp, BitVec.toNat_or, shiftRight_one_toNat, hcarry, Nat.or_comm, ← Nat.two_pow_add_eq_or_of_lt hhalf]
  omega

/-- Each of the four is the shared handler with its operation, and the operation is the spec's arithmetic. -/
theorem exec_shift {ins : Operand → Instr} (hins : ins ∈ [Instr.asl, .lsr, .rol, .ror]) :
    ∃ op, (∀ o s, exec (ins o) s = runHandler o.length (shiftHandler op o) s) ∧
      ∀ (c : Bool) (v : Byte), ShiftsTo ins v.toNat c.toNat (op c v).1.toNat (op c v).2.toNat := by
  simp only [List.mem_cons, List.not_mem_nil, or_false] at hins
  obtain rfl | rfl | rfl | rfl := hins
  · exact ⟨aslOp, exec_asl, fun _ v => .inl ⟨rfl, shiftLeft_one_toNat v, bit7_toNat v⟩⟩
  · exact ⟨lsrOp, exec_lsr, fun _ v => .inr (.inl ⟨rfl, shiftRight_one_toNat v, bit0_toNat v⟩)⟩
  · exact ⟨rolOp, exec_rol, fun c v => .inr (.inr (.inl ⟨rfl, rolOp_toNat c v, bit7_toNat v⟩))⟩
  · exact ⟨rorOp, exec_ror, fun c v => .inr (.inr (.inr ⟨rfl, rorOp_toNat c v, bit0_toNat v⟩))⟩

/-- The Carry after a shift is the bit shifted out. -/
theorem getFlag_shiftFlags_c (r : Byte × Bool) (p : Byte) : getFlag .c (shiftFlags r p) = r.2 :=
  getFlag_shiftFlags .c r p

/-- A read-modify-write's byte after it. -/
theorem read_modifyMemory (s : State) (a : Addr) (v q : Byte) (pc : Addr) :
    (((s.write a v).setP q).setPC pc).read a = v := by
  rw [State.setPC_read, State.setP_read, State.read_write, if_pos rfl]

/-! ### Branches (R130) -/

/-- A signed displacement added to an address, modulo 65536. -/
theorem add_sext_toNat (w : Addr) (d : Byte) : ((w + sext d).toNat : Int) = (w.toNat + d.toInt) % 65536 := by
  have hsext : ((sext d).toNat : Int) = d.toInt % 65536 := by
    rw [sext, BitVec.signExtend, BitVec.toNat_ofInt]
    omega
  rw [BitVec.toNat_add]
  omega

theorem add_two_toNat (w : Addr) : (w + 2).toNat = (w.toNat + 2) % 65536 := BitVec.toNat_add w 2

/-- Each of the eight is the shared branch on its flag and value. -/
theorem exec_branch {ins : Byte → Instr} {f : Flag} {v : Bool}
    (hins : (ins, f, v) ∈ [(Instr.bcc, .c, false), (.bcs, .c, true), (.beq, .z, true), (.bmi, .n, true),
      (.bne, .z, false), (.bpl, .n, false), (.bvc, .v, false), (.bvs, .v, true)]) (d : Byte) (s : State) :
    exec (ins d) s = branch f v d s := by
  simp only [List.mem_cons, Prod.mk.injEq, List.not_mem_nil, or_false] at hins
  obtain ⟨rfl, rfl, rfl⟩ | ⟨rfl, rfl, rfl⟩ | ⟨rfl, rfl, rfl⟩ | ⟨rfl, rfl, rfl⟩ | ⟨rfl, rfl, rfl⟩ | ⟨rfl, rfl, rfl⟩ |
    ⟨rfl, rfl, rfl⟩ | ⟨rfl, rfl, rfl⟩ := hins <;> rfl

end Sys2Proof.Machine

namespace Sys2Proof.Proofs

open Machine

/-- Settles O24: the result is the unbounded sum modulo 256, Carry its excess and Overflow that of the signed sum. -/
theorem adcAddsWithCarry : Obligations.AdcAddsWithCarry := by
  intro o s hwf
  have ho : o ≠ .implied := fun ho => Instr.not_misused_of_wellFormed hwf ⟨rfl, ho⟩
  obtain ⟨m, hm, hnext⟩ := execAdc_next ho s
  refine ⟨m, _, hm, hnext, adcResult_toNat s.a m _, ?carry, ?overflow, zeroNegativeOf_setZN rfl, rfl, ?frame⟩
  case carry => exact (congrArg (· = true) (getFlag_adcFlags .c s.a m s.p)).to_iff.trans decide_eq_true_iff
  case overflow =>
    exact (congrArg (· = true) (getFlag_adcFlags .v s.a m s.p)).to_iff.trans (adcOverflow_iff s.a m (s.flag .c))
  case frame =>
    have heffect := registerEffect_setA_setP (v := fun _ => adcResult s.a m (s.flag .c))
      (q := fun t => adcFlags s.a m t.p) fun t => getFlag_adcFlags_kept s.a m t.p
    exact ((heffect.frame s.inHandler).of_setPC _).mono (by simp) (by simp) (by simp)

/-- Settles O26: in Implied mode the shared handler shifts A. -/
theorem shiftOfAccumulator : Obligations.ShiftOfAccumulator := by
  intro ins s hins
  obtain ⟨op, hexec, hop⟩ := exec_shift hins
  refine ⟨_, (hexec .implied s).trans (runHandler_shiftHandler_implied op s), ?shift, zeroNegativeOf_setZN rfl, rfl,
    ((registerEffect_shiftA op).frame s.inHandler).of_setPC _⟩
  case shift =>
    have hshift := hop (s.flag .c) s.a
    rw [← getFlag_shiftFlags_c _ s.p] at hshift
    exact hshift

/-- Settles O27: in any other mode it shifts the byte at the effective address, in place. -/
theorem shiftOfMemory : Obligations.ShiftOfMemory := by
  intro ins o s hins _ ho
  obtain ⟨op, hexec, hop⟩ := exec_shift hins
  obtain ⟨a, ha, hnext⟩ := runHandler_shiftHandler_next op ho s
  refine ⟨a, _, ha, (hexec o s).trans hnext, ?shift, ?zn, rfl,
    frame_modifyMemory (getFlag_shiftFlags_kept _ s.p) a _ _⟩
  case shift =>
    have hshift := hop (s.flag .c) (s.read a)
    rw [← getFlag_shiftFlags_c _ s.p] at hshift
    rw [read_modifyMemory]
    exact hshift
  case zn =>
    rw [read_modifyMemory]
    exact zeroNegativeOf_setZN rfl

/-- Settles O28: the shared branch sets PC only, and its target is the signed sum modulo 65536. -/
theorem branchGoesToTarget : Obligations.BranchGoesToTarget := by
  intro ins f v hins d s
  refine ⟨_, (exec_branch hins d s).trans (branch_eq f v d s), ?pc, rfl, rfl, frame_setPC s _⟩
  case pc =>
    rw [State.setPC_pc]
    by_cases htaken : s.flag f = v ∧ d ≠ 0
    · rw [if_pos htaken, if_pos htaken, add_sext_toNat, add_two_toNat]
      omega
    · rw [if_neg htaken, if_neg htaken, add_two_toNat]
      omega

/-- Settles O31: both are the shared read-modify-write, DEC adding 255 modulo 256. -/
theorem incDecOfMemory : Obligations.IncDecOfMemory := by
  intro ins k hins o s hwf
  have hmodify : (ins o).mnemonic.evaluatesAddress = true ∧ (ins o).operand = o ∧ ∃ f : Byte → Byte,
      exec (ins o) s = runHandler o.length (modifyMemory o f fun v p => setZN (f v) p) s ∧
      ∀ v, (f v).toNat = (v.toNat + k) % 256 := by
    simp only [List.mem_cons, Prod.mk.injEq, List.not_mem_nil, or_false] at hins
    obtain ⟨rfl, rfl⟩ | ⟨rfl, rfl⟩ := hins
    · exact ⟨rfl, rfl, (· + 1), exec_inc o s, fun v => BitVec.toNat_add v 1⟩
    · exact ⟨rfl, rfl, (· - 1), exec_dec o s, fun v =>
        (congrArg BitVec.toNat (sub_one_eq_add_255 v)).trans (BitVec.toNat_add v 255)⟩
  obtain ⟨haddr, hoperand, f, hexec, hf⟩ := hmodify
  have ho : o ≠ .implied := fun ho => Instr.not_misused_of_wellFormed hwf ⟨haddr, hoperand.trans ho⟩
  obtain ⟨a, ha, hnext⟩ := runHandler_modifyMemory_next ho f (fun v p => setZN (f v) p) s
  refine ⟨a, _, ha, hexec.trans hnext, ?value, ?zn, rfl, frame_modifyMemory (getFlag_setZN_kept _ s.p) a _ _⟩
  case value => rw [read_modifyMemory, hf]
  case zn =>
    rw [read_modifyMemory]
    exact zeroNegativeOf_setZN rfl

end Sys2Proof.Proofs
end

section
/-! PROOFS of the statements of spec/46_jump_subroutine.md, spec/47_stack_rti.md and spec/48_flags_nop_brk.md on BRK:
jumps, and pushes and pops by the slots they use. -/

namespace Sys2Proof.Machine

/-- Different SP values have different slots. -/
theorem stackAddr_ne {p q : Byte} (h : p ≠ q) : stackAddr p ≠ stackAddr q := mt stackAddr_inj.mp h

/-- The slots at two distances above SP differ. -/
theorem stackAddr_add_ne (sp : Byte) {m n : Byte} (h : m ≠ n) : stackAddr (sp + m) ≠ stackAddr (sp + n) :=
  stackAddr_ne ((add_right_inj sp).not.mpr h)

/-- SP after two pushes. -/
theorem sp_sub_one_sub_one (v : Byte) : v - 1 - 1 = v - 2 := sub_sub v 1 1

/-! ### JSR (R172) -/

theorem jsr_read_high (s : State) (hi lo : Byte) (w : Addr) :
    (((s.push hi).push lo).setPC w).read (stackAddr s.sp) = hi := by
  have hsp : s.sp - 1 ≠ s.sp := mt sub_eq_self.mp (by decide)
  have hne : stackAddr s.sp ≠ stackAddr (s.sp - 1) := stackAddr_ne hsp.symm
  rw [State.setPC_read, State.push_read_of_ne (s := s.push hi) hne, State.push_read_slot]

theorem jsr_read_low (s : State) (hi lo : Byte) (w : Addr) :
    (((s.push hi).push lo).setPC w).read (stackAddr (s.sp - 1)) = lo :=
  (s.push hi).push_read_slot lo

/-! ### RTI (R184) -/

/-- Memory after RTI's three pops: the three slots above SP are zeroed. -/
theorem rti_read (s : State) (v : Byte) (a : Addr) :
    (s.afterPop.setP v).afterPop.afterPop.read a =
      if a ∈ [stackAddr (s.sp + 1), stackAddr (s.sp + 2), stackAddr (s.sp + 3)] then 0 else s.read a := by
  simp only [State.afterPop_read, State.setP_read, State.setP_sp, State.afterPop_sp, sp_add_one_add_one,
    sp_add_two_add_one, List.mem_cons, List.not_mem_nil, or_false]
  split_ifs <;> simp_all

/-- RTI's second pop reads the second slot above SP, which the first did not zero. -/
theorem rti_popped_low (s : State) (v : Byte) : (s.afterPop.setP v).popped = s.read (stackAddr (s.sp + 2)) := by
  have hne : stackAddr (s.sp + 2) ≠ stackAddr (s.sp + 1) := stackAddr_add_ne s.sp (by decide)
  simp only [State.popped, State.afterPop_read, State.setP_read, State.setP_sp, State.afterPop_sp, sp_add_one_add_one,
    if_neg hne]

/-- RTI's third pop reads the third slot above SP, which the first two did not zero. -/
theorem rti_popped_high (s : State) (v : Byte) :
    (s.afterPop.setP v).afterPop.popped = s.read (stackAddr (s.sp + 3)) := by
  have hne1 : stackAddr (s.sp + 3) ≠ stackAddr (s.sp + 1) := stackAddr_add_ne s.sp (by decide)
  have hne2 : stackAddr (s.sp + 3) ≠ stackAddr (s.sp + 2) := stackAddr_add_ne s.sp (by decide)
  simp only [State.popped, State.afterPop_read, State.setP_read, State.setP_sp, State.afterPop_sp, sp_add_one_add_one,
    sp_add_two_add_one, if_neg hne1, if_neg hne2]

/-! ### A push and then a pop -/

/-- The pop reads the byte pushed. -/
theorem popped_push (s : State) (v : Byte) : (s.push v).popped = v := by
  have hsp : (s.push v).sp + 1 = s.sp := sub_add_cancel s.sp 1
  rw [State.popped, hsp, State.push_read_slot]

/-- SP is as before. -/
theorem afterPop_push_sp (s : State) (v : Byte) : (s.push v).afterPop.sp = s.sp := sub_add_cancel s.sp 1

/-- The slot is zeroed and the rest of the memory as before. -/
theorem afterPop_push_read (s : State) (v : Byte) (a : Addr) :
    (s.push v).afterPop.read a = if a = stackAddr s.sp then 0 else s.read a := by
  have hsp : (s.push v).sp + 1 = s.sp := sub_add_cancel s.sp 1
  rw [State.afterPop_read, hsp]
  by_cases ha : a = stackAddr s.sp
  · rw [if_pos ha, if_pos ha]
  · rw [if_neg ha, if_neg ha, State.push_read_of_ne ha]

end Sys2Proof.Machine

namespace Sys2Proof.Proofs

open Machine

/-- Settles O35: JMP goes to its effective address, which for Indirect is the word read there. -/
theorem jmpSetsPc : Obligations.JmpSetsPc :=
  fun w s => ⟨(exec_jmp (.absolute w) s).trans (runHandler_jumped (u := s.setPC w) rfl),
    (exec_jmp (.indirect w) s).trans (runHandler_jumped (u := s.setPC (s.readWord w)) rfl)⟩

/-- Settles O36: the two pushes are of the bytes of `pc0 + 2`, into two slots. -/
theorem jsrPushesReturnMinusOne : Obligations.JsrPushesReturnMinusOne := by
  intro w s
  have hreturn : (s.pc + 1 + 1).toNat = (s.pc.toNat + 2) % 65536 :=
    (congrArg BitVec.toNat (add_assoc s.pc 1 1)).trans (add_two_toNat s.pc)
  refine ⟨_, exec_jsr_next w s, rfl, sp_sub_one_sub_one s.sp, ?high, ?low, frame_jsr s _ _ w⟩
  case high => rw [jsr_read_high, highByte_toNat, hreturn]
  case low =>
    rw [jsr_read_low, lowByte_toNat, hreturn]
    omega

/-- Settles O37: both are one push, of A or of P. -/
theorem pushStoresByte : Obligations.PushStoresByte := by
  intro i s v hi
  have hexec : exec i s = .next (s.inHandler.push v) := by
    simp only [List.mem_cons, Prod.mk.injEq, List.not_mem_nil, or_false] at hi
    obtain ⟨rfl, rfl⟩ | ⟨rfl, rfl⟩ := hi
    · exact exec_pha_next s
    · exact exec_php_next s
  exact ⟨_, hexec, s.inHandler.push_read_slot v, rfl, rfl, frame_pushByte s v⟩

/-- Settles O38: one pop, loaded into A. -/
theorem plaPullsAccumulator : Obligations.PlaPullsAccumulator := fun s =>
  ⟨_, exec_pla_next s, rfl, zeroNegativeOf_setZN rfl, rfl, s.inHandler.afterPop_read_slot, rfl, frame_pla s _⟩

/-- Settles O39: one pop, into P as it is. -/
theorem plpPullsStatus : Obligations.PlpPullsStatus := fun s =>
  ⟨_, exec_plp_next s, rfl, rfl, s.inHandler.afterPop_read_slot, rfl, frame_plp s _⟩

/-- Settles O40: three pops, each from its own slot above SP. -/
theorem rtiRestoresStatusAndPc : Obligations.RtiRestoresStatusAndPc := by
  intro s
  refine ⟨_, exec_rti_next s, rfl, ?pc, ?sp, fun a ha => (rti_read s s.popped a).trans (if_pos ha), frame_rti s _ _⟩
  case pc => rw [State.setPC_pc, concat_toNat, rti_popped_low, rti_popped_high]
  case sp => exact (congrArg (· + 1) (sp_add_one_add_one s.sp)).trans (sp_add_two_add_one s.sp)

/-- Settles O41: in both the pop reads the byte pushed and zeroes its slot. -/
theorem pushThenPullRestores : Obligations.PushThenPullRestores := by
  intro s
  have hslot (v : Byte) : (s.inHandler.push v).afterPop.read (stackAddr s.sp) = 0 :=
    (afterPop_push_read s.inHandler v _).trans (if_pos rfl)
  have hkept (v : Byte) (a : Addr) (ha : a ≠ stackAddr s.sp) : (s.inHandler.push v).afterPop.read a = s.read a :=
    (afterPop_push_read s.inHandler v a).trans (if_neg ha)
  exact ⟨⟨_, _, exec_pha_next s, exec_pla_next _, popped_push s.inHandler s.a, afterPop_push_sp s.inHandler s.a,
      hslot s.a, hkept s.a⟩,
    ⟨_, _, exec_php_next s, exec_plp_next _, popped_push s.inHandler s.p, afterPop_push_sp s.inHandler s.p,
      hslot s.p, hkept s.p⟩⟩

/-- Settles O42: PHP's slot is the first above the SP it leaves, and JSR's two are the second and the third. -/
theorem rtiUndoesJsrAndPhp : Obligations.RtiUndoesJsrAndPhp := by
  intro w s
  obtain ⟨t, ht, -, htsp, hhigh, hlow, htframe⟩ := jsrPushesReturnMinusOne w s
  obtain ⟨u, hu, hslot, husp, -, huframe⟩ := pushStoresByte .php t t.p (by simp)
  obtain ⟨v, hv, hvp, hvpc, hvsp, -, -⟩ := rtiRestoresStatusAndPc u
  have hsp1 : u.sp + 1 = t.sp := by rw [husp, sub_add_cancel]
  have hsp2 : u.sp + 2 = s.sp - 1 := by rw [husp, htsp]; bv_omega
  have hsp3 : u.sp + 3 = s.sp := by rw [husp, htsp]; bv_omega
  have hkept {q : Byte} (hq : q ≠ t.sp) : u.read (stackAddr q) = t.read (stackAddr q) :=
    huframe.memory_kept _ (by simpa using stackAddr_ne hq)
  have htp : t.p = s.p := eq_of_getFlag _ _ fun f => htframe.flags_kept f List.not_mem_nil
  refine ⟨t, u, v, ht, hu, hv, ?pc, ?status, ?sp⟩
  case pc =>
    apply BitVec.eq_of_toNat_eq
    rw [hvpc, hsp2, hsp3, hkept (by rw [htsp]; bv_omega), hkept (by rw [htsp]; bv_omega), hhigh, hlow, add_two_toNat]
    omega
  case status => rw [hvp, hsp1, hslot, htp]
  case sp => rw [hvsp, hsp3]

/-- Settles O45: BRK writes `run` only. -/
theorem brkHalts : Obligations.BrkHalts := fun s => (exec_brk s).trans (implied_eq _ s)

end Sys2Proof.Proofs
end

section
/-! PROOFS of the statements of spec/40_step_and_addressing.md section 2 on index sums, pointers and the memory operand,
for an instruction fetched from memory. -/

namespace Sys2Proof.Machine

/-- An index added to an address, modulo 65536 (R92, R93). -/
theorem add_zext_toNat (w : Addr) (v : Byte) : (w + zext v).toNat = (w.toNat + v.toNat) % 65536 := by
  rw [BitVec.toNat_add, zext_toNat]

/-- The address after one in the zero page, 0x0100 after 0x00FF (D10). -/
theorem zext_add_one_toNat (v : Byte) : (zext v + 1).toNat = v.toNat + 1 := by
  have hv : v.toNat < 256 := v.isLt
  have hsum : (zext v + 1).toNat = ((zext v).toNat + 1) % 65536 := BitVec.toNat_add _ _
  rw [hsum, zext_toNat]
  omega

/-- The memory operand of an assembled operand is the byte at its effective address, when the operand byte is the one
after the opcode (R98). -/
theorem memoryOperand_assemble (m : Mode) (s : State) :
    memoryOperand (m.assemble (s.read (s.pc + 1)) (s.read (s.pc + 2))) s.inHandler =
      (effectiveAddress (m.assemble (s.read (s.pc + 1)) (s.read (s.pc + 2))) s.inHandler).map s.read := by
  cases m <;> rfl

end Sys2Proof.Machine

namespace Sys2Proof

/-- An operand of Implied mode is the Implied operand. -/
theorem Operand.mode_eq_implied (o : Operand) : o.mode = .implied ↔ o = .implied := by
  cases o <;> simp [Operand.mode]

end Sys2Proof

namespace Sys2Proof.Proofs

open Machine

/-- Settles O47: the mode fixes the operand the fetch assembles; a sum is modulo 65536, and a pointer is a word read. -/
theorem indexedAndIndirectAddresses : Obligations.IndexedAndIndirectAddresses := by
  intro s i h b w hb hw a ha
  subst hb
  rw [State.readWord_operand] at hw
  subst hw
  have address {m : Mode} (hm : i.operand.mode = m) :
      effectiveAddress (m.assemble (s.read (s.pc + 1)) (s.read (s.pc + 2))) s.inHandler = some a :=
    (effectiveAddress_of_fetchDecode h hm _).symm.trans ha
  refine ⟨fun hm => ?absoluteX, fun hm => ?absoluteY, fun hm => ?indirect, fun hm => ?indirectX, fun hm => ?indirectY⟩
  case absoluteX =>
    obtain rfl : concat (s.read (s.pc + 2)) (s.read (s.pc + 1)) + zext s.x = a := Option.some.inj (address hm)
    exact add_zext_toNat _ _
  case absoluteY =>
    obtain rfl : concat (s.read (s.pc + 2)) (s.read (s.pc + 1)) + zext s.y = a := Option.some.inj (address hm)
    exact add_zext_toNat _ _
  case indirect =>
    obtain rfl : s.readWord (concat (s.read (s.pc + 2)) (s.read (s.pc + 1))) = a := Option.some.inj (address hm)
    exact s.readWord_toNat _
  case indirectX =>
    obtain rfl : s.readWord (zext (s.read (s.pc + 1) + s.x)) = a := Option.some.inj (address hm)
    refine ⟨_, _, zext_add_toNat _ _, ?high, s.readWord_toNat _⟩
    case high => rw [zext_add_one_toNat, BitVec.toNat_add]
  case indirectY =>
    obtain rfl : s.readWord (zext (s.read (s.pc + 1))) + zext s.y = a := Option.some.inj (address hm)
    refine ⟨_, _, zext_toNat _, zext_add_one_toNat _, ?sum⟩
    case sum => rw [add_zext_toNat, s.readWord_toNat]

/-- Settles O48: an Immediate or Relative operand byte is the byte at PC in the handler, and every other mode reads its
address. -/
theorem operandIsByteAtEffectiveAddress : Obligations.OperandIsByteAtEffectiveAddress := by
  intro s i h
  refine ⟨?operand, (effectiveAddress_isSome _ _).trans (Operand.mode_eq_implied _).not.symm⟩
  case operand =>
    rw [fetchDecode_operand h rfl]
    exact memoryOperand_assemble _ s

end Sys2Proof.Proofs
end

section
/-! PROOFS of the statements of spec/10_state.md section 8 and spec/70_reset_and_hazards.md: power-on, reset, the loader
and the boot sequence. -/

namespace Sys2Proof.Machine

/-! ### The reset event (R29) -/

/-- PC is reloaded from the vector. -/
theorem State.resetEvent_pc (mode : Bool) (s : State) : (s.resetEvent mode).pc = s.readWord Config.resetVector := by
  cases mode <;> rfl

theorem State.resetEvent_sp (mode : Bool) (s : State) : (s.resetEvent mode).sp = s.sp := by
  cases mode <;> rfl

theorem State.resetEvent_p (mode : Bool) (s : State) : (s.resetEvent mode).p = if mode then 0 else s.p := by
  cases mode <;> rfl

/-- A, X and Y are zeroed if the input says so. -/
theorem State.resetEvent_reg (mode : Bool) (s : State) {r : Reg} (hr : r ≠ .sp) :
    (s.resetEvent mode).reg r = if mode then 0 else s.reg r := by
  cases r with
  | sp => exact absurd rfl hr
  | a | x | y => cases mode <;> rfl

/-! ### The loader (R258) -/

/-- The bytes written from `a` on, none of them past 0xFFFF, read back; the rest of the memory is as before. -/
theorem State.writeBytes_read (bytes : List Byte) (s : State) (a b : Addr) (h : a.toNat + bytes.length ≤ 65536) :
    (s.writeBytes a bytes).read b =
      (if a.toNat ≤ b.toNat then bytes[b.toNat - a.toNat]? else none).getD (s.read b) := by
  induction bytes generalizing s a with
  | nil => simp [State.writeBytes]
  | cons x rest ih =>
    have ha : a.toNat < 65536 := a.isLt
    have hb : b.toNat < 65536 := b.isLt
    have hnext : (a + 1).toNat = (a.toNat + 1) % 65536 := BitVec.toNat_add a 1
    rw [List.length_cons] at h
    rw [State.writeBytes, ih (s.write a x) (a + 1) (by omega), State.read_write]
    obtain hge | hlt := Nat.lt_or_ge a.toNat b.toNat |>.symm
    · have hnone : (if (a + 1).toNat ≤ b.toNat then rest[b.toNat - (a + 1).toNat]? else none) = none := by
        split
        · exact List.getElem?_eq_none (by omega)
        · rfl
      rw [hnone, Option.getD_none]
      by_cases hba : b = a
      · simp [hba]
      · have hbelow : ¬ a.toNat ≤ b.toNat := fun hle => hba (BitVec.eq_of_toNat_eq (Nat.le_antisymm hge hle))
        rw [if_neg hba, if_neg hbelow, Option.getD_none]
    · have hba : b ≠ a := by
        rintro rfl
        omega
      have hindex : b.toNat - a.toNat = b.toNat - (a + 1).toNat + 1 := by omega
      rw [if_neg hba, if_pos (by omega), if_pos (by omega), hindex, List.getElem?_cons_succ]

/-- The vector after a load. -/
theorem State.loaded_readWord (s : State) (bytes : List Byte) :
    (s.loaded bytes).readWord Config.resetVector = Config.programOrigin :=
  State.readWord_writeWord _ _ _

/-- Every other byte after a load of an image that fits: the image from 0x8000 up, and the rest as before. -/
theorem State.loaded_read {bytes : List Byte} (h : bytes.length ≤ 0x8000) (s : State) {a : Addr} (hlow : a ≠ 0xFFFC)
    (hhigh : a ≠ 0xFFFD) :
    (s.loaded bytes).read a = (if 0x8000 ≤ a.toNat then bytes[a.toNat - 0x8000]? else none).getD (s.read a) := by
  have hfits : Config.programOrigin.toNat + bytes.length ≤ 65536 := Nat.add_le_add_left h 0x8000
  rw [State.loaded, State.read_writeWord_of_ne _ Config.resetVector _ a hlow hhigh,
    State.writeBytes_read bytes s _ a hfits]
  rfl

theorem boot_of_fits {bytes : List Byte} (h : bytes.length ≤ 0x8000) (m : Memory) (mode : Bool) :
    boot m bytes mode = .ok (((State.powerOn m).loaded bytes).resetEvent mode) := by
  rw [boot, loadProgram_of_fits h]

end Sys2Proof.Machine

namespace Sys2Proof.Proofs

open Machine

/-- Settles O52: the fields of the power-on state, and the two events of `State.reset`. -/
theorem powerOnState : Obligations.PowerOnState :=
  ⟨fun _ => ⟨rfl, rfl, rfl, rfl, rfl, rfl, rfl, rfl, fun _ => rfl⟩, reset_eq⟩

/-- Settles O53, field by field. -/
theorem resetEventEffect : Obligations.ResetEventEffect := by
  intro mode s
  have hregs : ∀ r ∈ [Reg.a, .x, .y], r ≠ .sp := by decide
  refine ⟨fun r hr => s.resetEvent_reg mode (hregs r hr), s.resetEvent_p mode, s.resetEvent_sp mode,
    s.resetEvent_mem mode, s.resetEvent_fault mode, ?vector, s.resetEvent_run mode⟩
  case vector =>
    rw [State.resetEvent_pc, State.readWord_toNat]
    rfl

/-- Settles O54: reset leaves FAULTED and its record, and takes HALTED to RUNNING; neither takes a step. -/
theorem faultedSurvivesReset : Obligations.FaultedSurvivesReset := by
  intro mode s
  refine ⟨fun hfaulted => ?faulted, fun hhalted => ⟨?running, step_of_not_running (by rw [hhalted]; nofun)⟩⟩
  case faulted =>
    have hrun : (s.resetEvent mode).run = .faulted := by rw [State.resetEvent_run, if_pos hfaulted]
    exact ⟨hrun, s.resetEvent_fault mode, step_of_not_running (by rw [hrun]; nofun)⟩
  case running => rw [State.resetEvent_run, if_neg (by rw [hhalted]; nofun)]

/-- Settles O55: the image is written below the wrap of the address space, and the vector over it. -/
theorem loaderPlacesImage : Obligations.LoaderPlacesImage := fun bytes s h =>
  ⟨_, loadProgram_of_fits h s, s.loaded_eq bytes, State.read_writeWord_low _ _ _, State.read_writeWord_high _ _ _,
    fun _ => s.loaded_read h⟩

/-- Settles O56: the length is checked first. -/
theorem loaderRefusesLongImage : Obligations.LoaderRefusesLongImage :=
  fun _ s h => loadProgram_of_long h s

/-- Settles O57: the load keeps the power-on registers, and the reset takes PC from the vector just written. -/
theorem bootStartsAtOrigin : Obligations.BootStartsAtOrigin := by
  intro m bytes mode h
  have hloaded := (State.powerOn m).loaded_eq bytes
  have hreg (r : Reg) (hr : r ≠ .sp) : (((State.powerOn m).loaded bytes).resetEvent mode).reg r = 0 := by
    rw [State.resetEvent_reg _ _ hr, hloaded]
    cases r with
    | sp => exact absurd rfl hr
    | a | x | y => exact ite_self 0
  refine ⟨_, boot_of_fits h m mode, ?run, ?fault, ?pc, ?stack, hreg .a nofun, hreg .x nofun, hreg .y nofun, ?p⟩
  case run => rw [State.resetEvent_run, hloaded]; rfl
  case fault => rw [State.resetEvent_fault, hloaded]; rfl
  case pc => rw [State.resetEvent_pc, State.loaded_readWord]; rfl
  case stack => rw [State.resetEvent_sp, hloaded]; rfl
  case p => rw [State.resetEvent_p, hloaded]; rfl

end Sys2Proof.Proofs
end
